-- ==== Sys2Proof/Config.lean ====
section
/-! DEFINITION. What is fixed when the block is built: the widths (R8, R11), the record of named parameters
(R7 to R10), and the free values, which the spec leaves open (no body, so no proof can see them). -/

namespace Sys2Proof.Config

/-- `W_US` (R11): width of a µs timestamp and of `last_edge`. It is a parameter of every type and every operation of the
model; this is its default, the width the machine of `exec` and `step` is built with.
PRESUMED 32 (the spec's own default, from general knowledge; D1), unsafe: log entry 1. -/
abbrev wUs : Nat := 32

/-- `W_MS` (R11): width of a ms time and of `last_accepted`, a parameter as `W_US` is; this is its default.
PRESUMED 32 (the spec's own default, from general knowledge; D2), unsafe: log entry 1. -/
abbrev wMs : Nat := 32

/-- `CODE_WIDTH` (R8): width of the accumulator `code_byte`. -/
abbrev codeWidth : Nat := 8

/-- Width of `pulse_index` (R20, D8). -/
abbrev indexWidth : Nat := 6

/-- `W = max(W_US, W_MS)` (R80): width of the operand field of an operation word. -/
abbrev argWidth (wUs : Nat := Config.wUs) (wMs : Nat := Config.wMs) : Nat := max wUs wMs

/-- Width of an operation word, `2 + W` (R80). -/
abbrev opWidth (wUs : Nat := Config.wUs) (wMs : Nat := Config.wMs) : Nat := argWidth wUs wMs + 2

/-- The numeric literals of the source, each a named parameter (R7 to R10, D30). -/
structure Params where
  /-- `TOL`, µs (R7) -/
  tol : Nat
  /-- `B1_LO`, µs (R7) -/
  b1Lo : Nat
  /-- `B1_HI`, µs (R7) -/
  b1Hi : Nat
  /-- `B0_LO`, µs (R7) -/
  b0Lo : Nat
  /-- `B0_HI`, µs (R7) -/
  b0Hi : Nat
  /-- `START_LO`, µs (R7) -/
  startLo : Nat
  /-- `START_HI`, µs (R7) -/
  startHi : Nat
  /-- `T_STALE`, µs (R7) -/
  tStale : Nat
  /-- `FRAME_LEN` (R8) -/
  frameLen : Nat
  /-- `CODE_FIRST` (R8) -/
  codeFirst : Nat
  /-- `CODE_LAST` (R8) -/
  codeLast : Nat
  /-- `T_DEBOUNCE`, ms (R9) -/
  tDebounce : Nat
  /-- `CODE_VOL_UP` (R10) -/
  codeVolUp : BitVec codeWidth
  /-- `CODE_VOL_DOWN` (R10) -/
  codeVolDown : BitVec codeWidth
  /-- `CODE_MUTE` (R10) -/
  codeMute : BitVec codeWidth
  deriving DecidableEq, Repr

/-- The values the source document gives (R7 to R10); the machine is built with these (R29). -/
def params : Params where
  tol := 20
  b1Lo := 1480
  b1Hi := 2520
  b0Lo := 980
  b0Hi := 1520
  startLo := 7000
  startHi := 11000
  tStale := 40000
  frameLen := 32
  codeFirst := 16
  codeLast := 23
  tDebounce := 200
  codeVolUp := 0xE0
  codeVolDown := 0xD0
  codeMute := 0xF0

/-- The orders in which the operations of one step can be performed (R41, D10). -/
inductive StrobeOrder where
  | edgePollReset
  | edgeResetPoll
  | pollEdgeReset
  | pollResetEdge
  | resetEdgePoll
  | resetPollEdge
  deriving DecidableEq, Repr, Inhabited

/-- FREE VALUE (R41, R207, D10): which order a step with several strobes takes. The spec leaves it open and
asks that every order be admitted; log entry 3, safe. -/
opaque sameStepOrder : Nat → StrobeOrder

/-- FREE VALUE (R42, R46): the level of `cmd_id` while `cmd_valid = 0`; log entry 4, safe. -/
opaque freeCmdId : Nat → BitVec 2

/-- `STATUS_INACTIVE_LEVEL` (R26, D14): the electrical level of `INACTIVE`, which the spec leaves OPEN;
log entry 5, safe. -/
opaque statusInactiveLevel : Bool

end Sys2Proof.Config
end

