-- ==== Sys2Proof/Word.lean ====
section
/-! DEFINITION. The word types of the block: every register and operand is an unsigned number of its stated width
(R12, R20, R63). The widths of the two clocks are parameters (R11), with the defaults of Config.lean: `Micros` is a time of the
machine as built, `Micros wUs` one of a block of any width. -/

namespace Sys2Proof

/-- A µs timestamp: `edge_ts`, `last_edge` (R11, R20, R40). -/
abbrev Micros (wUs : Nat := Config.wUs) := BitVec wUs

/-- A ms time: `ms_now`, `last_accepted` (R11, R20, R40). -/
abbrev Millis (wMs : Nat := Config.wMs) := BitVec wMs

/-- The code accumulator `code_byte` (R20, R22). -/
abbrev CodeByte := BitVec Config.codeWidth

/-- The pulse counter `pulse_index` (R20, R23). -/
abbrev PulseIndex := BitVec Config.indexWidth

/-- One received data bit (R117). -/
abbrev Bit := BitVec 1

/-- An operation word `OPW` (R80). -/
abbrev OpWord (wUs : Nat := Config.wUs) (wMs : Nat := Config.wMs) := BitVec (Config.opWidth wUs wMs)

/-- The operand field `arg` of an operation word (R80). -/
abbrev ArgField (wUs : Nat := Config.wUs) (wMs : Nat := Config.wMs) := BitVec (Config.argWidth wUs wMs)

end Sys2Proof
end

