-- ==== Sys2Proof/Syntax.lean ====
section
/-! DEFINITION. The syntax: one constructor of `Instr` per row of the opcode table, the words that encode them,
the input ports of a step, and the statements of the assembler notation (R91 to R93). The types that hold a time take the widths
of the clocks (R11) and have those of Config.lean as default. -/

namespace Sys2Proof

/-- The rows of the opcode table: the four operations of format `OPW` (R81) and the three recognized code
bytes of format `CMD8` (R88). -/
inductive Instr : (wUs : Nat := Config.wUs) → (wMs : Nat := Config.wMs) → Type where
  /-- `IDLE` (R183): a step with no strobe -/
  | idle {wUs wMs : Nat} : Instr wUs wMs
  /-- `EDGE now` (R110): one falling edge, with its µs timestamp -/
  | edge {wUs wMs : Nat} (now : Micros wUs) : Instr wUs wMs
  /-- `POLL now_ms` (R150): one dispatcher iteration at a ms time -/
  | poll {wUs wMs : Nat} (nowMs : Millis wMs) : Instr wUs wMs
  /-- `RESET` (R181): the host's `reset()` -/
  | reset {wUs wMs : Nat} : Instr wUs wMs
  /-- `CODE_VOL_UP` (R88): the code byte of volume-up, as the dispatcher takes it from `code_byte` -/
  | codeVolUp {wUs wMs : Nat} : Instr wUs wMs
  /-- `CODE_VOL_DOWN` (R88): the code byte of volume-down -/
  | codeVolDown {wUs wMs : Nat} : Instr wUs wMs
  /-- `CODE_MUTE` (R88): the code byte of mute -/
  | codeMute {wUs wMs : Nat} : Instr wUs wMs
  deriving DecidableEq, Repr

/-- A word of one of the two formats of the opcode table. -/
inductive EncodedWord : (wUs : Nat := Config.wUs) → (wMs : Nat := Config.wMs) → Type where
  /-- `OPW` (R80) -/
  | opw {wUs wMs : Nat} (w : OpWord wUs wMs) : EncodedWord wUs wMs
  /-- `CMD8` (R88) -/
  | cmd8 {wUs wMs : Nat} (c : CodeByte) : EncodedWord wUs wMs
  deriving DecidableEq, Repr

/-- The three commands of the HID port (R88, R89). -/
inductive Command where
  | volUp
  | volDown
  | mute
  deriving DecidableEq, Repr

namespace Sized

/-- The input ports of the block in one step (R40). -/
structure Ports (wUs wMs : Nat) where
  por : Bool
  edgeValid : Bool
  edgeTs : Micros wUs
  pollValid : Bool
  msNow : Millis wMs
  resetReq : Bool
  deriving DecidableEq, Repr

end Sized

/-- The input ports; `Ports` alone are those of the machine as built. -/
abbrev Ports (wUs : Nat := Config.wUs) (wMs : Nat := Config.wMs) := Sized.Ports wUs wMs

/-- What the host gives the block in one step: an operation word, which stands for the strobes of a step with at
most one strobe (R80), or the levels of all the input ports, which can also hold power-on reset and several
strobes (R40, R41, R81). -/
inductive Input : (wUs : Nat := Config.wUs) → (wMs : Nat := Config.wMs) → Type where
  | word {wUs wMs : Nat} (w : OpWord wUs wMs) : Input wUs wMs
  | ports {wUs wMs : Nat} (p : Ports wUs wMs) : Input wUs wMs
  deriving DecidableEq, Repr

/-- One statement of the assembler notation (R91 to R93); the literals are those of the text, before any width is
applied. -/
inductive AsmStmt where
  | edge (t : Nat)
  | poll (m : Nat)
  | reset
  | idle
  | por
  /-- pseudo-instruction `NOP` (R93) -/
  | nop
  /-- pseudo-instruction `FRAME t0, bits [, s0, s1, ss]` (R92) -/
  | frame (t0 bits s0 s1 ss : Nat)
  deriving DecidableEq, Repr

end Sys2Proof
end

