-- ==== Sys2Proof/Machine/State.lean ====
section
/-! DEFINITION. The state of the block as plain data: the six registers (R20), the output and input ports (R40), and the
model's own fields (the host's inputs still to come, the event trace of R200, the index of the free values). -/

namespace Sys2Proof.Machine

/-- `state`, the document's ReceiverState (R21); its 2-bit encoding is `ReceiverState.encoding` (R85). -/
inductive ReceiverState where
  /-- `AWAIT_FIRST` -/
  | awaitFirst
  /-- `AWAIT_START` -/
  | awaitStart
  /-- `RECEIVING` -/
  | receiving
  /-- `FRAME_READY` -/
  | frameReady
  deriving DecidableEq, Repr

/-- The level of the status indicator, abstract as the spec leaves it (R26, D14). -/
inductive StatusLevel where
  | inactive
  | active
  deriving DecidableEq, Repr

/-- The causes an EDGE aborts for (R200). -/
inductive AbortCause where
  /-- 1a: framing error, start marker -/
  | startMarker
  /-- 1b: framing error, data interval -/
  | dataInterval
  /-- 2: clock wraparound during frame -/
  | wraparound
  /-- 3: stale gap -/
  | staleGap
  deriving DecidableEq, Repr

/-- The causes a POLL drops a command for (R200). -/
inductive DropCause where
  /-- 4: unrecognized command code -/
  | unrecognized
  /-- 5a: debounce rejection, interval -/
  | interval
  /-- 5b: debounce rejection, wall-clock wrap -/
  | wallClockWrap
  deriving DecidableEq, Repr

/-- One event of the trace: its cause and the operand of the operation that found it, nothing else (R200). -/
inductive Event : (wUs : Nat := Config.wUs) → (wMs : Nat := Config.wMs) → Type where
  | abort {wUs wMs : Nat} (c : AbortCause) (now : Micros wUs) : Event wUs wMs
  | drop {wUs wMs : Nat} (c : DropCause) (nowMs : Millis wMs) : Event wUs wMs
  deriving DecidableEq, Repr

namespace Sized

/-- The state of the block, at the widths of its clocks (R11). -/
structure State (wUs wMs : Nat) where
  /-- register `state` (R21) -/
  state : ReceiverState
  /-- register `code_byte` (R22) -/
  codeByte : CodeByte
  /-- register `pulse_index` (R23) -/
  pulseIndex : PulseIndex
  /-- register `last_edge` (R24) -/
  lastEdge : Micros wUs
  /-- register `last_accepted` (R25) -/
  lastAccepted : Millis wMs
  /-- register `status_q` (R26) -/
  statusQ : StatusLevel
  /-- output ports `cmd_valid` and `cmd_id` of the last step (R40, R42): `none` is `cmd_valid = 0`, when `cmd_id`
  must not be read -/
  cmd : Option Command
  /-- the levels of the input ports in the step being performed (R40) -/
  ports : Ports wUs wMs
  /-- MODEL'S OWN: what the host has still to give the block, one entry a step -/
  inputs : List (Input wUs wMs)
  /-- MODEL'S OWN: the event trace of R200, newest first; no port shows it (R201) -/
  trace : List (Event wUs wMs)
  /-- MODEL'S OWN: the index of the next free value, advanced by every step -/
  freeIndex : Nat
  deriving DecidableEq, Repr

end Sized

/-- The state of the block; `State` alone is the state of the machine as built. -/
abbrev State (wUs : Nat := Config.wUs) (wMs : Nat := Config.wMs) := Sized.State wUs wMs

/-- Why the machine stops with a fault. There is NO constructor: the block has no fault state and no stuck state, and no
cause is fatal (R201). -/
inductive Fault where
  deriving DecidableEq, Repr

/-- Why the model gives an instruction no meaning. -/
inductive Refusal where
  /-- raised by an arm of `exec` whose instruction has no meaning yet (none of this model's has); safe -/
  | notModelled (mnemonic : String)
  /-- raised by every meaning in a state that breaks R31 to R34: such a state cannot be reached, the spec gives no
  behaviour from it, and a model must refuse it (R36, D29); safe -/
  | unreachableState
  deriving DecidableEq, Repr

/-- The input ports with no strobe set. The data lines are 0: DESIGN CHOICE, unsafe, log entry 7. -/
def quietPorts (wUs : Nat := Config.wUs) (wMs : Nat := Config.wMs) : Ports wUs wMs where
  por := false
  edgeValid := false
  edgeTs := 0
  pollValid := false
  msNow := 0
  resetReq := false

/-- The block right after power-on reset: every register as R45 says, the outputs as R46 says. The host has given
nothing yet, the trace is empty. -/
def State.reset : State where
  state := .awaitFirst
  codeByte := 0
  pulseIndex := 0
  lastEdge := 0
  lastAccepted := 0
  statusQ := .inactive
  cmd := none
  ports := quietPorts
  inputs := []
  trace := []
  freeIndex := 0

end Sys2Proof.Machine
end

