-- ==== Sys2Proof/Machine/Operands.lean ====
section
/-! DEFINITION. What the operations compute from their time operands: the wraparound test, the interval, the windows and
the bit classifier (R112 to R118), the interval symbols (R84), the debounce test (R155, R156), and the code map
(R88, R89). -/

namespace Sys2Proof.Machine

open Sys2Proof.Config (Params)

/-- The wraparound test of both clocks: the recorded time is greater than the present one, as unsigned numbers
(R112, R155). -/
def wrapped {w : Nat} (last now : BitVec w) : Bool := decide (now.toNat < last.toNat)

/-- `now - last` modulo `2^W` (R13, R113, R156). -/
def elapsed {w : Nat} (last now : BitVec w) : BitVec w := now - last

/-- An open window: neither end is included (R14). -/
def within (lo hi x : Nat) : Bool := decide (lo < x) && decide (x < hi)

/-- The stale test: strictly more than `T_STALE` (R114). -/
def stale {w : Nat} (p : Params) (delta : BitVec w) : Bool := decide (p.tStale < delta.toNat)

/-- The start marker window (R116). -/
def startInterval {w : Nat} (p : Params) (delta : BitVec w) : Bool := within p.startLo p.startHi delta.toNat

/-- `ClassBit(delta)`; the bit-1 window is tested first (R117, R118). -/
def classBit {w : Nat} (p : Params) (delta : BitVec w) : Option Bit :=
  if within p.b1Lo p.b1Hi delta.toNat then some 1
  else if within p.b0Lo p.b0Hi delta.toNat then some 0
  else none

/-- The interval symbol classes (R84). -/
inductive IntervalSymbol where
  | startMarker
  | bit0
  | bit1
  | stale
  | malformed
  deriving DecidableEq, Repr

/-- The symbol an interval has in a phase of the decoder (R84, R114, R116, R117); there is none where no interval is
classified (R111, R115). -/
def intervalSymbol {w : Nat} (p : Params) (phase : ReceiverState) (delta : BitVec w) : Option IntervalSymbol :=
  match phase with
  | .awaitFirst => none
  | .awaitStart =>
    if stale p delta then some .stale
    else if startInterval p delta then some .startMarker
    else some .malformed
  | .receiving =>
    if stale p delta then some .stale
    else
      match classBit p delta with
      | none => some .malformed
      | some b => if b = 1 then some .bit1 else some .bit0
  | .frameReady => none

/-- The debounce interval test (R156): less than `T_DEBOUNCE` since the last accepted command. -/
def tooSoon {w : Nat} (p : Params) (last now : BitVec w) : Bool := decide ((elapsed last now).toNat < p.tDebounce)

/-- `MapCode(code)` (R88); `none` is the spec's `NONE`. -/
def mapCode (p : Params) (code : CodeByte) : Option Command :=
  if code = p.codeVolUp then some .volUp
  else if code = p.codeVolDown then some .volDown
  else if code = p.codeMute then some .mute
  else none

/-- `cmd_id` of a command (R89). -/
def commandId : Command → BitVec 2
  | .volUp => 0b01
  | .volDown => 0b10
  | .mute => 0b11

/-- The 2-bit encoding of `state` (R85). -/
def ReceiverState.encoding : ReceiverState → BitVec 2
  | .awaitFirst => 0b00
  | .awaitStart => 0b01
  | .receiving => 0b10
  | .frameReady => 0b11

/-- The cause code of an abort (R200). -/
def AbortCause.code : AbortCause → String
  | .startMarker => "1a"
  | .dataInterval => "1b"
  | .wraparound => "2"
  | .staleGap => "3"

/-- The cause code of a drop (R200). -/
def DropCause.code : DropCause → String
  | .unrecognized => "4"
  | .interval => "5a"
  | .wallClockWrap => "5b"

end Sys2Proof.Machine
end

