-- ==== Sys2Proof/Machine/Flags.lean ====
section
/-! DEFINITION. The one status flag (R28) and the output ports as a host reads them (R40, R42). -/

namespace Sys2Proof.Machine

variable {wUs wMs : Nat}

/-- The frame-ready condition, the block's only flag (R28). -/
def frameReady (s : State wUs wMs) : Bool := decide (s.state = .frameReady)

/-- Output port `cmd_valid` (R40, R42). -/
def cmdValid (s : State wUs wMs) : Bool := s.cmd.isSome

/-- Output port `cmd_id` (R40, R89): a free value while `cmd_valid = 0` (R42); log entry 4. -/
def cmdIdPort (s : State wUs wMs) : BitVec 2 :=
  match s.cmd with
  | some c => commandId c
  | none => Config.freeCmdId s.freeIndex

/-- Output port `status_out`, always equal to `status_q` (R42, R214). -/
def statusOut (s : State wUs wMs) : StatusLevel := s.statusQ

/-- The electrical level of a status level (R26, D14); log entry 5. -/
def StatusLevel.electrical : StatusLevel → Bool
  | .inactive => Config.statusInactiveLevel
  | .active => !Config.statusInactiveLevel

end Sys2Proof.Machine
end

