-- ==== Sys2Proof/Machine/Ops.lean ====
section
/-! DEFINITION. The operations every meaning is built from: the reset procedure (R180), power-on reset (R240), the abort
and drop of a cause (R200; what the block has in place of taking an exception, R208), emitting a command (R157), and
the check that a state can be reached (R31 to R36). They, and all that the meanings are built from, are for clocks of any width
(R11) and any record of parameters (D30). -/

namespace Sys2Proof.Machine

open Sys2Proof.Config (Params)

variable {wUs wMs : Nat}

/-- What a step of this machine answers. -/
abbrev Result (wUs : Nat := Config.wUs) (wMs : Nat := Config.wMs) := Host.Outcome (State wUs wMs) Fault Refusal

/-- `cmd_valid <- 0` (R42, R150, R181, R183). -/
def noCommand (s : State wUs wMs) : State wUs wMs := { s with cmd := none }

/-- `ResetCore()` (R180): the four decoder registers, all in one step; nothing else. -/
def resetCore (s : State wUs wMs) : State wUs wMs :=
  { s with lastEdge := 0, codeByte := 0, pulseIndex := 0, state := .awaitFirst }

/-- Power-on reset (R240): every register at its value of R45, `cmd_valid = 0`. -/
def powerOnReset (s : State wUs wMs) : State wUs wMs :=
  { s with
    state := .awaitFirst, codeByte := 0, pulseIndex := 0, lastEdge := 0, lastAccepted := 0, statusQ := .inactive,
    cmd := none }

/-- `trace Abort(c)` and `trace Drop(c)`: the event enters the trace and no register is written (R15, R200). -/
def traceEvent (e : Event wUs wMs) (s : State wUs wMs) : State wUs wMs := { s with trace := e :: s.trace }

/-- The abort of a frame attempt: `ResetCore()` and the event, nothing else, so it is precise (R200, R201, R208). The block
saves nothing and transfers nowhere, and it has no return from it (R208, R209). -/
def abortFrame (c : AbortCause) (now : Micros wUs) (s : State wUs wMs) : State wUs wMs :=
  traceEvent (.abort c now) (resetCore s)

/-- The drop of a command: the event and nothing else (R200, R201). -/
def dropCommand (c : DropCause) (nowMs : Millis wMs) (s : State wUs wMs) : State wUs wMs :=
  traceEvent (.drop c nowMs) s

/-- `emit(cmd)` and `last_accepted <- now_ms` (R157). -/
def emit (c : Command) (nowMs : Millis wMs) (s : State wUs wMs) : State wUs wMs :=
  { s with cmd := some c, lastAccepted := nowMs }

/-- `k = min(max(pulse_index - 16, 0), 8)`: how many code bits are stored (R33); the subtraction is cut off at 0. -/
def storedBits (p : Params) (index : PulseIndex) : Nat := min (index.toNat - p.codeFirst) Config.codeWidth

/-- The values `code_byte` can hold when `k` code bits are stored (R33): 0 for none, `k` bits followed by one 0 for
1 to 7, anything for 8. -/
def codeByteLegal (k : Nat) (code : CodeByte) : Bool :=
  if k = 0 then decide (code = 0)
  else if k < Config.codeWidth then decide (code.toNat % 2 = 0) && decide (code.toNat < 2 ^ (k + 1))
  else true

/-- The state does not break R31 to R34. -/
def legal (p : Params) (s : State wUs wMs) : Bool :=
  match s.state with
  | .awaitFirst => decide (s.codeByte = 0) && decide (s.pulseIndex = 0) && decide (s.lastEdge = 0)
  | .awaitStart => decide (s.codeByte = 0) && decide (s.pulseIndex = 0)
  | .receiving => decide (s.pulseIndex.toNat < p.frameLen) && codeByteLegal (storedBits p s.pulseIndex) s.codeByte
  | .frameReady => decide (s.pulseIndex.toNat = p.frameLen)

/-- An operation's answer: its next state, or a refusal where it starts from a state that cannot be reached (R36, D29);
log entry 2. -/
def fromReachable (p : Params) (s next : State wUs wMs) : Result wUs wMs :=
  if legal p s then .next next else .refused .unreachableState

end Sys2Proof.Machine
end

