-- ==== Sys2Proof/Machine/Control.lean ====
section
/-! DEFINITION. The control operations RESET (R181) and IDLE (R183). -/

namespace Sys2Proof.Machine

/-- `RESET`: `cmd_valid <- 0; ResetCore()` (R181). -/
def execReset (s : State) : Result := fromReachable Config.params s (resetCore (noCommand s))

/-- `IDLE`: `cmd_valid <- 0` (R183). -/
def execIdle (s : State) : Result := fromReachable Config.params s (noCommand s)

end Sys2Proof.Machine
end

