-- ==== Sys2Proof/Machine/Dispatcher.lean ====
section
/-! DEFINITION. The Command Dispatcher: the operation POLL (R150), and the three recognized code bytes (R88), which are what a
POLL executes when it finds a completed frame. -/

namespace Sys2Proof.Machine

open Sys2Proof.Config (Params)

variable {wUs wMs : Nat}

/-- A recognized command against the debounce baseline (R154 to R157): no baseline, wall-clock wrap (5b), interval (5a),
emit. -/
def debounce (p : Params) (c : Command) (nowMs : Millis wMs) (s : State wUs wMs) : State wUs wMs :=
  if s.lastAccepted ≠ 0 then
    if wrapped s.lastAccepted nowMs then dropCommand .wallClockWrap nowMs { s with lastAccepted := 0 }
    else if tooSoon p s.lastAccepted nowMs then dropCommand .interval nowMs s
    else emit c nowMs s
  else emit c nowMs s

/-- A mapped code: debounce it, or drop it as unrecognized without touching the baseline (R153). -/
def dispatch (p : Params) (c : Option Command) (nowMs : Millis wMs) (s : State wUs wMs) : State wUs wMs :=
  match c with
  | none => dropCommand .unrecognized nowMs s
  | some c => debounce p c nowMs s

/-- One dispatcher iteration (R150): nothing unless a frame is ready (R151); else take the code, free the channel with
`ResetCore()`, and only then map and debounce (R152). -/
def dispatcherPoll (p : Params) (nowMs : Millis wMs) (s : State wUs wMs) : State wUs wMs :=
  if frameReady s then dispatch p (mapCode p s.codeByte) nowMs (resetCore s) else s

/-- A recognized code byte as the dispatcher takes it: R151, R152 and R154 to R157 with the command of its row of R88, at the
time the port `ms_now` shows. DESIGN CHOICE: log entry 8. -/
def dispatchCode (p : Params) (c : Command) (s : State wUs wMs) : State wUs wMs :=
  if frameReady s then debounce p c s.ports.msNow (resetCore s) else s

/-- `POLL now_ms` (R150). -/
def execPoll (nowMs : Millis) (s : State) : Result :=
  fromReachable Config.params s (dispatcherPoll Config.params nowMs (noCommand s))

/-- `CODE_VOL_UP`: code byte 0xE0 is volume-up (R10, R88). -/
def execCodeVolUp (s : State) : Result :=
  fromReachable Config.params s (dispatchCode Config.params .volUp (noCommand s))

/-- `CODE_VOL_DOWN`: code byte 0xD0 is volume-down (R10, R88). -/
def execCodeVolDown (s : State) : Result :=
  fromReachable Config.params s (dispatchCode Config.params .volDown (noCommand s))

/-- `CODE_MUTE`: code byte 0xF0 is mute (R10, R88). -/
def execCodeMute (s : State) : Result :=
  fromReachable Config.params s (dispatchCode Config.params .mute (noCommand s))

end Sys2Proof.Machine
end

