-- ==== Sys2Proof/Machine/PulseDecoder.lean ====
section
/-! DEFINITION. The Pulse Decoder: the operation EDGE (R110) step by step. -/

namespace Sys2Proof.Machine

open Sys2Proof.Config (Params)

variable {wUs wMs : Nat}

/-- `AWAIT_FIRST`: the edge is recorded, nothing is classified (R115). -/
def recordFirst (now : Micros wUs) (s : State wUs wMs) : State wUs wMs := { s with lastEdge := now, state := .awaitStart }

/-- `AWAIT_START`: the start marker, or abort 1a (R116). -/
def confirmStart (p : Params) (delta now : Micros wUs) (s : State wUs wMs) : State wUs wMs :=
  if startInterval p delta then { s with pulseIndex := 0, lastEdge := now, state := .receiving }
  else abortFrame .startMarker now s

/-- The accumulator after a bit at a pulse index (R120): OR the bit in, and shift unless it is the last one; outside the code
field nothing is written. -/
def accumulate (p : Params) (index : PulseIndex) (b : Bit) (code : CodeByte) : CodeByte :=
  if p.codeFirst ≤ index.toNat ∧ index.toNat ≤ p.codeLast then
    if index.toNat ≠ p.codeLast then (code ||| b.setWidth Config.codeWidth) <<< 1
    else code ||| b.setWidth Config.codeWidth
  else code

/-- A classified data interval: accumulate, count, record the edge, and complete the frame (R120 to R123). -/
def storeBit (p : Params) (b : Bit) (now : Micros wUs) (s : State wUs wMs) : State wUs wMs :=
  { s with
    codeByte := accumulate p s.pulseIndex b s.codeByte
    pulseIndex := s.pulseIndex + 1
    lastEdge := now
    state := if (s.pulseIndex + 1).toNat = p.frameLen then .frameReady else s.state }

/-- `RECEIVING`: a data bit, or abort 1b (R117, R119). -/
def receiveBit (p : Params) (delta now : Micros wUs) (s : State wUs wMs) : State wUs wMs :=
  match classBit p delta with
  | none => abortFrame .dataInterval now s
  | some b => storeBit p b now s

/-- The stale check (R114): `ResetCore()`, with an event unless the decoder was already in `AWAIT_FIRST` (R126). -/
def resetIfStale (p : Params) (delta now : Micros wUs) (s : State wUs wMs) : State wUs wMs :=
  if stale p delta then
    resetCore (if s.state = .awaitFirst then s else traceEvent (.abort .staleGap now) s)
  else s

/-- The state rule: what an edge does that passed the gate and the global checks (R110). -/
def edgeByState (p : Params) (delta now : Micros wUs) (s : State wUs wMs) : State wUs wMs :=
  match s.state with
  | .awaitFirst => recordFirst now s
  | .awaitStart => confirmStart p delta now s
  | .receiving => receiveBit p delta now s
  | .frameReady => s

/-- One falling edge, its checks in the order of R205: the gate, the wraparound, the stale gap, the state rule (R110). -/
def fallingEdge (p : Params) (now : Micros wUs) (s : State wUs wMs) : State wUs wMs :=
  if frameReady s then s
  else if wrapped s.lastEdge now then abortFrame .wraparound now s
  else
    edgeByState p (elapsed s.lastEdge now) now (resetIfStale p (elapsed s.lastEdge now) now s)

/-- `EDGE now` (R110). -/
def execEdge (now : Micros) (s : State) : Result :=
  fromReachable Config.params s (fallingEdge Config.params now (noCommand s))

end Sys2Proof.Machine
end

