-- ==== Sys2Proof/Machine/Dispatch.lean ====
section
/-! DEFINITION. The dispatch: one arm per constructor of `Instr`. -/

namespace Sys2Proof.Machine

def exec (i : Instr) (s : State) : Host.Outcome State Fault Refusal :=
  match i with
  | .idle => Sys2Proof.Machine.execIdle s
  | .edge now => Sys2Proof.Machine.execEdge now s
  | .poll nowMs => Sys2Proof.Machine.execPoll nowMs s
  | .reset => Sys2Proof.Machine.execReset s
  | .codeVolUp => Sys2Proof.Machine.execCodeVolUp s
  | .codeVolDown => Sys2Proof.Machine.execCodeVolDown s
  | .codeMute => Sys2Proof.Machine.execCodeMute s

end Sys2Proof.Machine
end

