-- ==== Sys2Proof/WellFormed.lean ====
section
/-! DEFINITION. The checks on syntax and configuration, each a Bool. -/

namespace Sys2Proof

/-- Every instruction is well formed: its operand's type carries the width of R82, and every value of `op` and of an
operand is defined (R83). -/
def Instr.wellFormed {wUs wMs : Nat} : Instr wUs wMs → Bool
  | .idle => true
  | .edge _ => true
  | .poll _ => true
  | .reset => true
  | .codeVolUp => true
  | .codeVolDown => true
  | .codeMute => true

/-- A timestamp literal must fit a µs timestamp, a time literal a ms time (R91), and the bits of a `FRAME` 32 bits
(R92). -/
def AsmStmt.wellFormed (stmt : AsmStmt) (wUs : Nat := Config.wUs) (wMs : Nat := Config.wMs) : Bool :=
  match stmt with
  | .edge t => decide (t < 2 ^ wUs)
  | .poll m => decide (m < 2 ^ wMs)
  | .reset => true
  | .idle => true
  | .por => true
  | .nop => true
  | .frame t0 bits s0 s1 ss =>
      decide (t0 < 2 ^ wUs) && decide (bits < 2 ^ 32) && decide (s0 < 2 ^ wUs) &&
        decide (s1 < 2 ^ wUs) && decide (ss < 2 ^ wUs)

/-- A program is launched by power-on reset (R243), and each of its statements is well formed. -/
def programWellFormed (program : List AsmStmt) (wUs : Nat := Config.wUs) (wMs : Nat := Config.wMs) : Bool :=
  match program with
  | .por :: rest => rest.all fun stmt => stmt.wellFormed wUs wMs
  | _ => false

/-- Which records of parameters the model calls admissible. DESIGN CHOICE, log entry 21: the spec gives one value for each
parameter (R7 to R10), lets a corrected value be substituted (D30), and states no condition on another record. The model
asks that the ends of the bit windows stay derived from `TOL` as the table of R7 derives them; that the start window is not
empty and that `START_HI <= T_STALE`, two relations the spec states nowhere; that the stored bits are as many as the
accumulator holds and lie inside the frame, as they do in R8; that `FRAME_LEN` fits the 6 bits of `pulse_index` (R20); and
that the three codes differ, as they do in R10. No operation and no statement reads this check. -/
def Config.Params.wellFormed (p : Config.Params) : Bool :=
  decide (p.b1Lo + p.tol = 1500) && decide (p.b1Hi = 2500 + p.tol) &&
    decide (p.b0Lo + p.tol = 1000) && decide (p.b0Hi = 1500 + p.tol) &&
    decide (p.startLo < p.startHi) && decide (p.startHi ≤ p.tStale) &&
    decide (p.codeFirst + Config.codeWidth = p.codeLast + 1) && decide (p.codeLast < p.frameLen) &&
    decide (p.frameLen < 2 ^ Config.indexWidth) &&
    decide (p.codeVolUp ≠ p.codeVolDown) && decide (p.codeVolUp ≠ p.codeMute) &&
    decide (p.codeVolDown ≠ p.codeMute)

end Sys2Proof
end

