-- ==== Sys2Proof/Decode.lean ====
section
/-! DEFINITION. The decoder, total on every word and rejecting by name (R80 to R83, R88), and after it the encoder,
written from the same tables. Both are for clocks of any width (R11, R80); `decode` is the decoder of the machine as built. -/

namespace Sys2Proof

variable {wUs wMs : Nat}

/-- Why a word has no instruction. -/
inductive DecodeError where
  /-- a code byte that is none of the three recognized ones (R88) -/
  | unrecognizedCode (c : CodeByte)
  /-- a number that does not fit the longest format of the table, `OPW` (R80) -/
  | tooWide (w : Nat)
  deriving DecidableEq, Repr

/-- The field `op = word[1:0]` (R80). -/
def opField {n : Nat} (w : BitVec n) : BitVec 2 := w.extractLsb' 0 2

/-- The field `arg = word[W+1:2]` (R80). -/
def argField (w : OpWord wUs wMs) : ArgField wUs wMs := w.extractLsb' 2 (Config.argWidth wUs wMs)

/-- `now = arg[W_US-1:0]`; the bits above are ignored (R82). -/
def microsOperand {n : Nat} (a : BitVec n) : Micros wUs := a.extractLsb' 0 wUs

/-- `now_ms = arg[W_MS-1:0]`; the bits above are ignored (R82). -/
def millisOperand {n : Nat} (a : BitVec n) : Millis wMs := a.extractLsb' 0 wMs

/-- The operation an operation word stands for (R81, R82); total, since every value of `op` is defined (R83). -/
def decodeOp (w : OpWord wUs wMs) : Instr wUs wMs :=
  if opField w = 0b00#2 then .idle
  else if opField w = 0b01#2 then .edge (microsOperand (argField w))
  else if opField w = 0b10#2 then .poll (millisOperand (argField w))
  else .reset

/-- The row of the opcode table a code byte stands for (R10, R88); every other value is unrecognized. -/
def decodeCode (c : CodeByte) : Except DecodeError (Instr wUs wMs) :=
  if c = Config.params.codeVolUp then .ok .codeVolUp
  else if c = Config.params.codeVolDown then .ok .codeVolDown
  else if c = Config.params.codeMute then .ok .codeMute
  else .error (.unrecognizedCode c)

/-- The decoder, for clocks of any width. -/
def decodeWord : EncodedWord wUs wMs → Except DecodeError (Instr wUs wMs)
  | .opw w => .ok (decodeOp w)
  | .cmd8 c => decodeCode c

/-- The decoder of the machine as built. -/
def decode (w : EncodedWord) : Except DecodeError Instr := decodeWord w

/-- An operation word `{arg, op}` (R12, R80). -/
def opWord (arg : ArgField wUs wMs) (op : BitVec 2) : OpWord wUs wMs := arg ++ op

/-- The operation word of IDLE, with `arg = 0` (R81, R82). -/
def idleWord : OpWord wUs wMs := opWord 0 0b00#2

/-- The operation word of EDGE (R81, R82). -/
def edgeWord (now : Micros wUs) : OpWord wUs wMs := opWord (now.setWidth (Config.argWidth wUs wMs)) 0b01#2

/-- The operation word of POLL (R81, R82). -/
def pollWord (nowMs : Millis wMs) : OpWord wUs wMs := opWord (nowMs.setWidth (Config.argWidth wUs wMs)) 0b10#2

/-- The operation word of RESET, with `arg = 0` (R81, R82). -/
def resetWord : OpWord wUs wMs := opWord 0 0b11#2

/-- The encoder: the canonical word of an instruction (R80 to R82, R88). -/
def encode : Instr wUs wMs → EncodedWord wUs wMs
  | .idle => .opw idleWord
  | .edge now => .opw (edgeWord now)
  | .poll nowMs => .opw (pollWord nowMs)
  | .reset => .opw resetWord
  | .codeVolUp => .cmd8 Config.params.codeVolUp
  | .codeVolDown => .cmd8 Config.params.codeVolDown
  | .codeMute => .cmd8 Config.params.codeMute

/-- The word of the opcode table that `w` stands for, given how many bits are spelt out. A word of at most 8 bits that is
one of the three code bytes has format `CMD8`; every other number that fits is an operation word whose higher bits are
zero, and a number that does not fit is rejected. DESIGN CHOICE: log entry 6. -/
def tableWord (nbits w : Nat) : Except DecodeError EncodedWord :=
  if nbits ≤ Config.codeWidth ∧ w < 2 ^ Config.codeWidth ∧
      (BitVec.ofNat Config.codeWidth w = Config.params.codeVolUp ∨
        BitVec.ofNat Config.codeWidth w = Config.params.codeVolDown ∨
        BitVec.ofNat Config.codeWidth w = Config.params.codeMute) then
    .ok (.cmd8 (BitVec.ofNat Config.codeWidth w))
  else if w < 2 ^ Config.opWidth then .ok (.opw (BitVec.ofNat Config.opWidth w))
  else .error (.tooWide w)

/-- The instruction the decoder reads from an instruction whose bits are `w`, bit 0 the least significant. -/
def decodeTableWord (nbits w : Nat) : Option Instr :=
  match tableWord nbits w with
  | .error _ => none
  | .ok e =>
    match decode e with
    | .error _ => none
    | .ok i => some i

end Sys2Proof
end

