-- ==== Sys2Proof/Machine/Block.lean ====
section
/-! DEFINITION. The block at any widths of its clocks and with any record of parameters (R11, D1, D2, D30). `exec` is this block as
built: `exec_eq_perform` of Laws/Exec.lean. -/

namespace Sys2Proof.Machine

open Sys2Proof.Config (Params)

variable {wUs wMs : Nat}

/-- The next state an instruction leaves where its state can be reached. -/
def effect (p : Params) : Instr wUs wMs → State wUs wMs → State wUs wMs
  | .idle, s => noCommand s
  | .edge now, s => fallingEdge p now (noCommand s)
  | .poll nowMs, s => dispatcherPoll p nowMs (noCommand s)
  | .reset, s => resetCore (noCommand s)
  | .codeVolUp, s => dispatchCode p .volUp (noCommand s)
  | .codeVolDown, s => dispatchCode p .volDown (noCommand s)
  | .codeMute, s => dispatchCode p .mute (noCommand s)

/-- An instruction of the block: its effect, or the refusal of a state that cannot be reached (R36). -/
def perform (p : Params) (i : Instr wUs wMs) (s : State wUs wMs) : Result wUs wMs := fromReachable p s (effect p i s)

end Sys2Proof.Machine
end

