-- ==== Sys2Proof/Machine/Fetch.lean ====
section
/-! DEFINITION. What a step takes from the host and what it makes of it: the strobes of the input ports become operations
(R41), an operation word stands for the strobes of a step with at most one (R80), power-on reset overrides all
(R240), and several operations of one step run one after another (R41, R42). All of it is for clocks of any width (R11), and what
runs an instruction is an argument: `exec` for the machine as built, `perform p` for the block with other parameters. -/

namespace Sys2Proof.Machine

open Sys2Proof.Config (StrobeOrder)

variable {wUs wMs : Nat}

/-- The ports with every strobe off and the data lines as they were. -/
def withoutStrobes (p : Ports wUs wMs) : Ports wUs wMs :=
  { p with por := false, edgeValid := false, pollValid := false, resetReq := false }

/-- The levels of the input ports that an operation stands for (R41, R81), the data lines it does not drive as they were. A
code byte is executed under the strobe of the POLL that finds it (R152). -/
def strobesOf (prev : Ports wUs wMs) : Instr wUs wMs → Ports wUs wMs
  | .idle => withoutStrobes prev
  | .edge now => { withoutStrobes prev with edgeValid := true, edgeTs := now }
  | .poll nowMs => { withoutStrobes prev with pollValid := true, msNow := nowMs }
  | .reset => { withoutStrobes prev with resetReq := true }
  | .codeVolUp => { withoutStrobes prev with pollValid := true }
  | .codeVolDown => { withoutStrobes prev with pollValid := true }
  | .codeMute => { withoutStrobes prev with pollValid := true }

/-- What the host gives in this step; a host that gives nothing sets no strobe (R41, R252); log entry 9. -/
def nextInput (s : State wUs wMs) : Input wUs wMs :=
  match s.inputs with
  | [] => .ports (withoutStrobes s.ports)
  | i :: _ => i

/-- The levels of the input ports under an input. -/
def portsOf (prev : Ports wUs wMs) : Input wUs wMs → Ports wUs wMs
  | .word w => strobesOf prev (decodeOp w)
  | .ports p => p

/-- The state after the input has been taken: the input is gone, the ports show it, the free values move on. -/
def afterFetch (s : State wUs wMs) : State wUs wMs :=
  { s with
    inputs := s.inputs.tail
    ports := portsOf s.ports (nextInput s)
    freeIndex := s.freeIndex + 1 }

/-- The operation of the strobe `edge_valid`, if it is set (R41). -/
def edgeOps (p : Ports wUs wMs) : List (Instr wUs wMs) := if p.edgeValid then [.edge p.edgeTs] else []

/-- The operation of the strobe `poll_valid`, if it is set (R41). -/
def pollOps (p : Ports wUs wMs) : List (Instr wUs wMs) := if p.pollValid then [.poll p.msNow] else []

/-- The operation of the strobe `reset_req`, if it is set (R41). -/
def resetOps (p : Ports wUs wMs) : List (Instr wUs wMs) := if p.resetReq then [.reset] else []

/-- The operations of the strobes that are set, in an order (R41). -/
def strobeOps (o : StrobeOrder) (p : Ports wUs wMs) : List (Instr wUs wMs) :=
  match o with
  | .edgePollReset => edgeOps p ++ pollOps p ++ resetOps p
  | .edgeResetPoll => edgeOps p ++ resetOps p ++ pollOps p
  | .pollEdgeReset => pollOps p ++ edgeOps p ++ resetOps p
  | .pollResetEdge => pollOps p ++ resetOps p ++ edgeOps p
  | .resetEdgePoll => resetOps p ++ edgeOps p ++ pollOps p
  | .resetPollEdge => resetOps p ++ pollOps p ++ edgeOps p

/-- The operations of one step: those of its strobes, and `IDLE` where no strobe is set (R41). -/
def stepOps (o : StrobeOrder) (p : Ports wUs wMs) : List (Instr wUs wMs) :=
  match strobeOps o p with
  | [] => [.idle]
  | i :: rest => i :: rest

/-- Operations one after another, each on the state the one before left (R65, R69); `cmd_valid` is 1 at the end if any of
them emitted (R42). -/
def runOps (run : Instr wUs wMs → State wUs wMs → Result wUs wMs) : List (Instr wUs wMs) → State wUs wMs → Result wUs wMs
  | [], s => .next s
  | i :: rest, s =>
    match run i s with
    | .next t =>
      match runOps run rest t with
      | .next u => .next { u with cmd := u.cmd.or t.cmd }
      | .fault r => .fault r
      | .refused r => .refused r
    | .fault r => .fault r
    | .refused r => .refused r

/-- One step, its operations in a given order: the instruction of an operation word, power-on reset where `por` is set
(R240), else the operations of the strobes (R41). -/
def stepInOrder (run : Instr wUs wMs → State wUs wMs → Result wUs wMs) (o : StrobeOrder) (s : State wUs wMs) : Result wUs wMs :=
  match nextInput s with
  | .word w => run (decodeOp w) (afterFetch s)
  | .ports p => if p.por then .next (powerOnReset (afterFetch s)) else runOps run (stepOps o p) (afterFetch s)

/-- One step of the block at any widths and with any record of parameters (R11, D30); the order of its operations is a free value
(R41, D10). -/
def blockStep (p : Config.Params) (s : State wUs wMs) : Result wUs wMs :=
  stepInOrder (perform p) (Config.sameStepOrder s.freeIndex) s

/-- A completed frame that carries a code byte, and the POLL that finds it: how a word of format `CMD8` comes to be executed
(R70, R152). The POLL's time is the level of `ms_now`. -/
def withCodeWord (c : CodeByte) (s : State wUs wMs) : State wUs wMs :=
  { s with
    state := .frameReady
    codeByte := c
    pulseIndex := BitVec.ofNat Config.indexWidth Config.params.frameLen
    inputs := .word (pollWord s.ports.msNow) :: s.inputs }

/-- An operation word as the host's next input. -/
def withOpWord (w : OpWord wUs wMs) (s : State wUs wMs) : State wUs wMs := { s with inputs := .word w :: s.inputs }

/-- A word of the opcode table placed where the next step takes it from; a number that is no word of the table places
nothing. -/
def placeWord (s : State wUs wMs) : Except DecodeError (EncodedWord wUs wMs) → State wUs wMs
  | .ok (.opw w) => withOpWord w s
  | .ok (.cmd8 c) => withCodeWord c s
  | .error _ => s

end Sys2Proof.Machine
end

