-- ==== Sys2Proof/Machine/Step.lean ====
section
/-! DEFINITION. One step of the machine, and the placing of a word of the opcode table where a step takes it from. -/

namespace Sys2Proof.Machine

/-- One step (R65). Where several strobes are set, their order is a free value, so every order is admitted (R41, D10). -/
def step (s : State) : Host.Outcome State Fault Refusal :=
  stepInOrder exec (Config.sameStepOrder s.freeIndex) s

/-- The state whose next step runs the instruction of the opcode table whose bits are `w`; log entry 6. -/
def State.withFetchWord (s : State) (nbits w : Nat) : State := placeWord s (tableWord nbits w)

end Sys2Proof.Machine
end

