-- ==== Sys2Proof/Machine/Assembler.lean ====
section
/-! DEFINITION. The assembler notation of the spec (R91), with the pseudo-instructions `FRAME` (R92) and `NOP` (R93): from the
characters of a line to a statement, and from a statement to the inputs it gives the block. -/

namespace Sys2Proof.Machine

variable {wUs wMs : Nat}

/-- Why a line is no statement of the notation. -/
inductive AsmError where
  | unknownMnemonic (word : List Char)
  | badNumber (word : List Char)
  | operandCount
  /-- an operand with a name that is none of the names still free -/
  | badOperand (name : List Char)
  | tooWide (stmt : AsmStmt)
  deriving DecidableEq, Repr

/-- The ports of a step in which power-on reset is set (R81, R240). -/
def powerOnPorts (wUs : Nat := Config.wUs) (wMs : Nat := Config.wMs) : Ports wUs wMs :=
  { quietPorts wUs wMs with por := true }

/-- Bits `31 - p` to 0 of a 32-bit number for the last `n = 32 - p` pulse indices, most significant first (R92). -/
def frameBits (bits : BitVec 32) : Nat → List Bool
  | 0 => []
  | n + 1 => bits.getLsbD n :: frameBits bits n

/-- The times of the edges that follow a time `t`, one for each bit: `t <- t + (bit ? s1 : s0)` modulo `2^W_US` (R92). -/
def bitEdges (s0 s1 : Micros wUs) (t : Micros wUs) : List Bool → List (Micros wUs)
  | [] => []
  | b :: rest => (t + if b then s1 else s0) :: bitEdges s0 s1 (t + if b then s1 else s0) rest

/-- The times of the 34 edges of `FRAME t0, bits, s0, s1, ss` (R92). -/
def frameEdges (t0 : Micros wUs) (bits : BitVec 32) (s0 s1 ss : Micros wUs) : List (Micros wUs) :=
  t0 :: (t0 + ss) :: bitEdges s0 s1 (t0 + ss) (frameBits bits 32)

/-- The inputs a statement gives the block, one a step (R91 to R93). -/
def expandStmt : AsmStmt → List (Input wUs wMs)
  | .edge t => [.word (edgeWord (BitVec.ofNat wUs t))]
  | .poll m => [.word (pollWord (BitVec.ofNat wMs m))]
  | .reset => [.word resetWord]
  | .idle => [.word idleWord]
  | .por => [.ports (powerOnPorts wUs wMs)]
  | .nop => [.word idleWord]
  | .frame t0 bits s0 s1 ss =>
      (frameEdges (BitVec.ofNat wUs t0) (BitVec.ofNat 32 bits) (BitVec.ofNat wUs s0)
        (BitVec.ofNat wUs s1) (BitVec.ofNat wUs ss)).map fun t => .word (edgeWord t)

/-- A program runs from top to bottom, one operation a step (R91). -/
def assemble (program : List AsmStmt) : List (Input wUs wMs) := program.flatMap expandStmt

/-- A program as the host's inputs, before the step that takes its first word. -/
def State.withProgram (s : State wUs wMs) (program : List AsmStmt) : State wUs wMs :=
  { s with inputs := assemble program }

/-- The value of a decimal digit, or of a hexadecimal one where `hex` says so. -/
def digitValue (hex : Bool) (c : Char) : Option Nat :=
  if '0'.toNat ≤ c.toNat ∧ c.toNat ≤ '9'.toNat then some (c.toNat - '0'.toNat)
  else if hex ∧ 'a'.toNat ≤ c.toNat ∧ c.toNat ≤ 'f'.toNat then some (c.toNat - 'a'.toNat + 10)
  else if hex ∧ 'A'.toNat ≤ c.toNat ∧ c.toNat ≤ 'F'.toNat then some (c.toNat - 'A'.toNat + 10)
  else none

/-- The digits of a number, most significant first. -/
def digitsValue (hex : Bool) (acc : Nat) : List Char → Option Nat
  | [] => some acc
  | c :: rest =>
    match digitValue hex c with
    | none => none
    | some d => digitsValue hex (acc * (if hex then 16 else 10) + d) rest

/-- A number in decimal, or in hexadecimal with the prefix `0x` (R91). -/
def parseNumber (word : List Char) : Except AsmError Nat :=
  match word with
  | [] => .error (.badNumber [])
  | '0' :: 'x' :: d :: rest => (digitsValue true 0 (d :: rest)).elim (.error (.badNumber word)) .ok
  | d :: rest => (digitsValue false 0 (d :: rest)).elim (.error (.badNumber word)) .ok

/-- An operand of a statement: its name where the text gives one (`s1 = 1500`), and its number. -/
structure Operand where
  name : Option (List Char)
  value : Nat
  deriving DecidableEq, Repr

/-- Operands, one after another: `name = number`, or a number alone. -/
def parseOperands : List (List Char) → Except AsmError (List Operand)
  | [] => .ok []
  | name :: ['='] :: number :: rest =>
    match parseNumber number, parseOperands rest with
    | .ok n, .ok os => .ok (⟨some name, n⟩ :: os)
    | .error e, _ => .error e
    | .ok _, .error e => .error e
  | number :: rest =>
    match parseNumber number, parseOperands rest with
    | .ok n, .ok os => .ok (⟨none, n⟩ :: os)
    | .error e, _ => .error e
    | .ok _, .error e => .error e

/-- The words of a text, separated by blanks and commas; an equals sign is a word of its own. -/
def wordsOf : List Char → List (List Char) → List (List Char)
  | [], acc => acc.reverse.map List.reverse |>.filter (· ≠ [])
  | c :: rest, acc =>
    if c = ' ' ∨ c = '\t' ∨ c = ',' then wordsOf rest ([] :: acc)
    else if c = '=' then wordsOf rest ([] :: ['='] :: acc)
    else
      match acc with
      | [] => wordsOf rest [[c]]
      | w :: ws => wordsOf rest ((c :: w) :: ws)

/-- A line without its comment and its label (R91). -/
def bareLine (line : List Char) : List Char :=
  let code := line.takeWhile (· ≠ ';')
  if code.contains ':' then (code.dropWhile (· ≠ ':')).drop 1 else code

/-- The names of the optional operands of `FRAME`, in their order (R92). -/
def intervalNames : List (List Char) := [['s', '0'], ['s', '1'], ['s', 's']]

/-- The optional operands of `FRAME` (R92): by position while the names still free run on in their order, or by name, each at most
once; a number alone after a named operand is rejected. -/
def intervalOperands (free : List (List Char)) (named : Bool) : List Operand → Except AsmError (List (List Char × Nat))
  | [] => .ok []
  | ⟨none, n⟩ :: rest =>
    match named, free with
    | true, _ => .error .operandCount
    | false, [] => .error .operandCount
    | false, name :: free =>
      match intervalOperands free false rest with
      | .ok given => .ok ((name, n) :: given)
      | .error e => .error e
  | ⟨some name, n⟩ :: rest =>
    if free.contains name then
      match intervalOperands (free.filter (· ≠ name)) true rest with
      | .ok given => .ok ((name, n) :: given)
      | .error e => .error e
    else .error (.badOperand name)

/-- `FRAME t0, bits` with the intervals given, each of the others at its default: `s0` 1200, `s1` 2000, `ss` 9000 (R92). -/
def frameStmt (t0 bits : Nat) (given : List (List Char × Nat)) : AsmStmt :=
  .frame t0 bits ((given.lookup ['s', '0']).getD 1200) ((given.lookup ['s', '1']).getD 2000)
    ((given.lookup ['s', 's']).getD 9000)

/-- A mnemonic and its operands (R91 to R93). -/
def statementOf (mnemonic : List Char) (operands : List Operand) : Except AsmError AsmStmt :=
  if mnemonic = ['E', 'D', 'G', 'E'] then
    match operands with
    | [⟨none, t⟩] => .ok (.edge t)
    | _ => .error .operandCount
  else if mnemonic = ['P', 'O', 'L', 'L'] then
    match operands with
    | [⟨none, m⟩] => .ok (.poll m)
    | _ => .error .operandCount
  else if mnemonic = ['F', 'R', 'A', 'M', 'E'] then
    match operands with
    | ⟨none, t0⟩ :: ⟨none, bits⟩ :: rest =>
      match intervalOperands intervalNames false rest with
      | .ok given => .ok (frameStmt t0 bits given)
      | .error e => .error e
    | _ => .error .operandCount
  else if operands ≠ [] then .error .operandCount
  else if mnemonic = ['R', 'E', 'S', 'E', 'T'] then .ok .reset
  else if mnemonic = ['I', 'D', 'L', 'E'] then .ok .idle
  else if mnemonic = ['P', 'O', 'R'] then .ok .por
  else if mnemonic = ['N', 'O', 'P'] then .ok .nop
  else .error (.unknownMnemonic mnemonic)

/-- One line of a program (R91): nothing for an empty line, else one well-formed statement. -/
def parseLine (line : List Char) (wUs : Nat := Config.wUs) (wMs : Nat := Config.wMs) : Except AsmError (Option AsmStmt) :=
  match wordsOf (bareLine line) [] with
  | [] => .ok none
  | m :: ws =>
    match parseOperands ws with
    | .error e => .error e
    | .ok operands =>
      match statementOf m operands with
      | .error e => .error e
      | .ok stmt => if stmt.wellFormed wUs wMs then .ok (some stmt) else .error (.tooWide stmt)

end Sys2Proof.Machine
end

