-- ==== Sys2Proof/Safety.lean ====
section
/-! DEFINITION. The terms claims are made in: a legal state and a safe step, who issues which operation, edges whose
intervals carry given bits, and runs between two commands. -/

namespace Sys2Proof.Machine

variable {wUs wMs : Nat}

/-- The state breaks none of R31 to R34. -/
abbrev Legal (s : State wUs wMs) : Prop := legal Config.params s = true

/-- What holds in every state after power-on reset: R31 to R34, and the status indicator at its inactive level (R26). -/
abbrev SoundState (s : State wUs wMs) : Prop := Legal s ∧ s.statusQ = .inactive

/-- A safe answer: the machine goes on, in a state that keeps the invariant (R201). -/
def Safe (r : Result wUs wMs) : Prop := ∃ t, r = .next t ∧ SoundState t

/-- The next state of an answer, where there is one. -/
def nextState : Result wUs wMs → Option (State wUs wMs)
  | .next t => some t
  | .fault _ => none
  | .refused _ => none

/-- The two contexts that drive the block (R210). -/
inductive Context where
  | interrupt
  | polling
  deriving DecidableEq, Repr

/-- Which context may issue which operation (R210). A code byte is executed by the POLL that finds it; a step with no strobe is
issued by neither. -/
def Context.issues : Context → Instr wUs wMs → Bool
  | .interrupt, .edge _ => true
  | .interrupt, .reset => true
  | .interrupt, .idle => false
  | .interrupt, .poll _ => false
  | .interrupt, .codeVolUp => false
  | .interrupt, .codeVolDown => false
  | .interrupt, .codeMute => false
  | .polling, .poll _ => true
  | .polling, .reset => true
  | .polling, .codeVolUp => true
  | .polling, .codeVolDown => true
  | .polling, .codeMute => true
  | .polling, .idle => false
  | .polling, .edge _ => false

/-- Edges at these times, the one before them at `last`, close intervals that carry these bits (R86, R117). -/
def carries (last : Micros wUs) : List (Micros wUs) → List Bit → Bool
  | [], [] => true
  | t :: ts, b :: bs =>
      decide (last.toNat ≤ t.toNat) && decide (classBit Config.params (t - last) = some b) && carries t ts bs
  | [], _ :: _ => false
  | _ :: _, [] => false

/-- Bits read as a binary number, the first most significant (R33, R62). -/
def bitsValue : List Bit → Nat
  | [] => 0
  | b :: bs => b.toNat * 2 ^ bs.length + bitsValue bs

/-- From `s` some operations run to `u`, none of which emits a command or drops one for a wall-clock wrap (R159). -/
inductive QuietRun : State → State → Prop where
  | done (s : State) : QuietRun s s
  | op (i : Instr) (s t u : State) (runs : exec i s = .next t) (silent : t.cmd = none)
      (noWrapDrop : ∀ m, t.trace ≠ .drop .wallClockWrap m :: s.trace) (rest : QuietRun t u) : QuietRun s u

end Sys2Proof.Machine
end

