-- ==== Sys2Proof/Certificates/Slice0/Obligations.lean ====
section
/-! DEFINITION. The statements for the provers, one `def Obligations.<Name> : Prop` each; OBLIGATIONS.json says which rule of the
spec each one formalises. The numbers of R7 to R10 are written out, so that a wrong parameter makes a statement false. -/

open Sys2Proof Sys2Proof.Machine

/-! ### Reset and control -/

/-- R45, R46: the registers and the outputs after power-on reset. That `cmd_id`, which R46 leaves unspecified, is the free value
`freeCmdId` is the model's own choice, log entry 4. -/
def Obligations.ResetValues : Prop :=
  (State.reset.state = .awaitFirst ∧ State.reset.state.encoding = 0b00#2 ∧ State.reset.codeByte = 0x00#8 ∧
    State.reset.pulseIndex = 0 ∧ State.reset.lastEdge = 0 ∧ State.reset.lastAccepted = 0 ∧
    State.reset.statusQ = .inactive) ∧
  cmdValid State.reset = false ∧ statusOut State.reset = .inactive ∧
    cmdIdPort State.reset = Config.freeCmdId State.reset.freeIndex

/-- R240: a step in which `por` is set writes every register, drives `cmd_valid = 0`, and performs nothing else that was
delivered in it; from every state. -/
def Obligations.PowerOnResetOverrides : Prop :=
  ∀ (s : State) (p : Ports) (rest : List Input), s.inputs = .ports p :: rest → p.por = true →
    step s = .next
      { s with
        state := .awaitFirst, codeByte := 0, pulseIndex := 0, lastEdge := 0, lastAccepted := 0, statusQ := .inactive,
        cmd := none, ports := p, inputs := rest, freeIndex := s.freeIndex + 1 }

/-- R242: power-on reset clears the debounce baseline, so the first recognized command after it is emitted; RESET, and
the `ResetCore()` of a POLL that drops its code, keep the baseline. -/
def Obligations.BaselineSurvivesReset : Prop :=
  (∀ s : State, (powerOnReset s).lastAccepted = 0) ∧
    (∀ (s : State) (m : Millis) (c : Command), Legal s → s.state = .frameReady → s.lastAccepted = 0 →
      mapCode Config.params s.codeByte = some c →
      ∃ t, exec (.poll m) s = .next t ∧ t.cmd = some c) ∧
    (∀ s : State, Legal s → ∃ t, exec .reset s = .next t ∧ t.lastAccepted = s.lastAccepted) ∧
    (∀ (s : State) (m : Millis), Legal s → s.state = .frameReady → mapCode Config.params s.codeByte = none →
      ∃ t, exec (.poll m) s = .next t ∧ t.lastAccepted = s.lastAccepted)

/-- R183: IDLE writes no register; `cmd_valid` is 0. -/
def Obligations.IdleWritesNoRegister : Prop :=
  ∀ s : State, Legal s → exec .idle s = .next { s with cmd := none }

/-- R181: RESET performs `ResetCore()` from every state that can be reached, and emits nothing. -/
def Obligations.ResetClearsDecoder : Prop :=
  ∀ s : State, Legal s →
    exec .reset s = .next { s with state := .awaitFirst, codeByte := 0, pulseIndex := 0, lastEdge := 0, cmd := none }

/-- R182: two RESETs in a row leave the same state as one. -/
def Obligations.ResetTwiceIsResetOnce : Prop :=
  ∀ s : State, Legal s →
    ∃ t, exec .reset s = .next t ∧ exec .reset t = .next t ∧ t.state = .awaitFirst ∧ t.lastEdge = 0 ∧
      t.codeByte = 0 ∧ t.pulseIndex = 0 ∧ t.lastAccepted = s.lastAccepted

/-! ### EDGE -/

/-- R111: in FRAME_READY an edge writes nothing, whatever its timestamp. -/
def Obligations.EdgeIgnoredWhenFrameReady : Prop :=
  ∀ (s : State) (now : Micros), Legal s → s.state = .frameReady →
    exec (.edge now) s = .next { s with cmd := none }

/-- R112: an edge earlier than the recorded one resets the decoder and is consumed; the edge after it is a first edge. The same of
the block with clocks of any width (R11). -/
def Obligations.EdgeWraparoundResets : Prop :=
  (∀ (s : State) (now : Micros), Legal s → s.state ≠ .frameReady → now.toNat < s.lastEdge.toNat →
    ∃ t, exec (.edge now) s = .next t ∧
      t = { s with
        state := .awaitFirst, codeByte := 0, pulseIndex := 0, lastEdge := 0, cmd := none,
        trace := .abort .wraparound now :: s.trace } ∧
      ∀ after : Micros, exec (.edge after) t = .next { t with state := .awaitStart, lastEdge := after }) ∧
  (∀ (wUs wMs : Nat) (s : State wUs wMs) (now : Micros wUs), Legal s → s.state ≠ .frameReady →
    now.toNat < s.lastEdge.toNat →
    ∃ t, perform Config.params (.edge now) s = .next t ∧
      t = { s with
        state := .awaitFirst, codeByte := 0, pulseIndex := 0, lastEdge := 0, cmd := none,
        trace := .abort .wraparound now :: s.trace } ∧
      ∀ after : Micros wUs,
        perform Config.params (.edge after) t = .next { t with state := .awaitStart, lastEdge := after })

/-- R114: a gap of more than 40000 µs resets the decoder and records the edge as the first of a fresh attempt; a gap of exactly
40000 µs is not stale. -/
def Obligations.EdgeStaleGapRestarts : Prop :=
  ∀ (s : State) (now : Micros), Legal s → s.state ≠ .frameReady → s.lastEdge.toNat ≤ now.toNat →
    (40000 < now.toNat - s.lastEdge.toNat →
      exec (.edge now) s = .next
        { s with
          state := .awaitStart, codeByte := 0, pulseIndex := 0, lastEdge := now, cmd := none,
          trace := if s.state = .awaitFirst then s.trace else .abort .staleGap now :: s.trace }) ∧
    (now.toNat - s.lastEdge.toNat = 40000 → s.state ≠ .awaitFirst →
      exec (.edge now) s = .next
        { s with
          state := .awaitFirst, codeByte := 0, pulseIndex := 0, lastEdge := 0, cmd := none,
          trace := .abort (if s.state = .awaitStart then .startMarker else .dataInterval) now :: s.trace })

/-- R115, R126: in AWAIT_FIRST every edge is recorded, whatever its timestamp, and no event is traced. -/
def Obligations.FirstEdgeRecorded : Prop :=
  ∀ (s : State) (now : Micros), Legal s → s.state = .awaitFirst →
    s.lastEdge.toNat ≤ now.toNat ∧ now - s.lastEdge = now ∧
      exec (.edge now) s = .next { s with state := .awaitStart, lastEdge := now, cmd := none }

/-- R116: the start marker window, both ends excluded; outside it (and not stale) abort 1a. -/
def Obligations.StartMarkerWindow : Prop :=
  ∀ (s : State) (now : Micros), Legal s → s.state = .awaitStart → s.lastEdge.toNat ≤ now.toNat →
    (7000 < now.toNat - s.lastEdge.toNat → now.toNat - s.lastEdge.toNat < 11000 →
      exec (.edge now) s = .next { s with state := .receiving, pulseIndex := 0, lastEdge := now, cmd := none }) ∧
    (now.toNat - s.lastEdge.toNat ≤ 7000 ∨ 11000 ≤ now.toNat - s.lastEdge.toNat →
      now.toNat - s.lastEdge.toNat ≤ 40000 →
      exec (.edge now) s = .next
        { s with
          state := .awaitFirst, codeByte := 0, pulseIndex := 0, lastEdge := 0, cmd := none,
          trace := .abort .startMarker now :: s.trace })

/-- R117, R118: the bit classifier; both windows are open, and the overlap is bit 1. -/
def Obligations.ClassBitWindows : Prop :=
  ∀ delta : Micros,
    (classBit Config.params delta = some 1 ↔ 1480 < delta.toNat ∧ delta.toNat < 2520) ∧
    (classBit Config.params delta = some 0 ↔ 980 < delta.toNat ∧ delta.toNat ≤ 1480) ∧
    (classBit Config.params delta = none ↔ delta.toNat ≤ 980 ∨ 2520 ≤ delta.toNat)

/-- R119: a malformed data interval resets the decoder with cause 1b and the edge is consumed; the next edge is a first
edge. (An interval above 40000 µs is stale first, R114.) -/
def Obligations.MalformedIntervalAborts : Prop :=
  ∀ (s : State) (now : Micros), Legal s → s.state = .receiving → s.lastEdge.toNat ≤ now.toNat →
    now.toNat - s.lastEdge.toNat ≤ 980 ∨ 2520 ≤ now.toNat - s.lastEdge.toNat →
    now.toNat - s.lastEdge.toNat ≤ 40000 →
    ∃ t, exec (.edge now) s = .next t ∧
      t = { s with
        state := .awaitFirst, codeByte := 0, pulseIndex := 0, lastEdge := 0, cmd := none,
        trace := .abort .dataInterval now :: s.trace } ∧
      ∀ after : Micros, exec (.edge after) t = .next { t with state := .awaitStart, lastEdge := after }

/-- R121, R122 (with the accumulation of R120): a classified data interval is counted, whatever its index, and its edge is
recorded, the one that completes the frame included. -/
def Obligations.DataBitReceived : Prop :=
  ∀ (s : State) (now : Micros) (b : Bit), Legal s → s.state = .receiving → s.lastEdge.toNat ≤ now.toNat →
    classBit Config.params (now - s.lastEdge) = some b →
    exec (.edge now) s = .next
      { s with
        state := if s.pulseIndex = 31 then .frameReady else .receiving
        pulseIndex := s.pulseIndex + 1
        lastEdge := now
        codeByte :=
          if 16 ≤ s.pulseIndex.toNat ∧ s.pulseIndex.toNat < 23 then (s.codeByte ||| b.setWidth 8) <<< 1
          else if s.pulseIndex.toNat = 23 then s.codeByte ||| b.setWidth 8
          else s.codeByte
        cmd := none }

/-- R123: the data interval that makes the count 32 completes the frame, and only `ResetCore()` changes its code from then on. -/
def Obligations.FrameCompletesAtThirtyTwo : Prop :=
  (∀ (s : State) (now : Micros) (b : Bit), Legal s → s.state = .receiving → s.lastEdge.toNat ≤ now.toNat →
    classBit Config.params (now - s.lastEdge) = some b →
    ∃ t, exec (.edge now) s = .next t ∧ (t.state = .frameReady ↔ t.pulseIndex = 32) ∧
      (t.state ≠ .frameReady → t.state = .receiving)) ∧
  (∀ (i : Instr) (s t : State), s.state = .frameReady → exec i s = .next t →
    t.state = .frameReady ∧ t.codeByte = s.codeByte ∧ t.pulseIndex = s.pulseIndex ∧ t.lastEdge = s.lastEdge ∨
      t.state = .awaitFirst ∧ t.codeByte = 0 ∧ t.pulseIndex = 0 ∧ t.lastEdge = 0)

/-- R120: the accumulator keeps every code bit: bit 7 is 0 before each shift, and from pulse index 16 the next eight bits
stand in it in arrival order, first most significant; at indices 16 to 23 the bit is OR'ed in, and before 23 the whole is then
shifted; outside the code field nothing is written. -/
def Obligations.AccumulatorLosesNoBit : Prop :=
  (∀ (s : State) (b : Bit), Legal s → s.state = .receiving → s.pulseIndex.toNat < 23 →
    (s.codeByte ||| b.setWidth 8).toNat < 128) ∧
  (∀ (s : State) (edges : List Micros) (bits : List Bit), Legal s → s.state = .receiving →
    s.pulseIndex = 16 → bits.length = 8 → carries s.lastEdge edges bits = true →
    ∃ t, runOps exec (edges.map .edge) s = .next t ∧ t.pulseIndex = 24 ∧ t.codeByte.toNat = bitsValue bits) ∧
  (∀ (s : State) (now : Micros) (b : Bit), Legal s → s.state = .receiving → s.lastEdge.toNat ≤ now.toNat →
    classBit Config.params (now - s.lastEdge) = some b →
    ∃ t, exec (.edge now) s = .next t ∧
      (16 ≤ s.pulseIndex.toNat ∧ s.pulseIndex.toNat < 23 → t.codeByte = (s.codeByte ||| b.setWidth 8) <<< 1) ∧
      (s.pulseIndex.toNat = 23 → t.codeByte = s.codeByte ||| b.setWidth 8) ∧
      (s.pulseIndex.toNat < 16 ∨ 23 < s.pulseIndex.toNat → t.codeByte = s.codeByte))

/-- R84 with R114, R116, R117, R119: in a phase that classifies, what EDGE does is decided by the symbol of the interval. -/
def Obligations.IntervalSymbolDecidesEdge : Prop :=
  ∀ (s : State) (now : Micros) (sym : IntervalSymbol), Legal s → s.lastEdge.toNat ≤ now.toNat →
    intervalSymbol Config.params s.state (now - s.lastEdge) = some sym →
    ∃ t, exec (.edge now) s = .next t ∧
      match sym with
      | .stale => t.state = .awaitStart ∧ t.lastEdge = now ∧ t.pulseIndex = 0 ∧ t.codeByte = 0 ∧
          t.trace = .abort .staleGap now :: s.trace
      | .startMarker => s.state = .awaitStart ∧ t.state = .receiving ∧ t.lastEdge = now ∧ t.pulseIndex = 0 ∧
          t.trace = s.trace
      | .malformed => t.state = .awaitFirst ∧ t.lastEdge = 0 ∧ t.pulseIndex = 0 ∧ t.codeByte = 0 ∧
          (t.trace = .abort .startMarker now :: s.trace ∧ s.state = .awaitStart ∨
            t.trace = .abort .dataInterval now :: s.trace ∧ s.state = .receiving)
      | .bit0 => s.state = .receiving ∧ t.lastEdge = now ∧ t.pulseIndex = s.pulseIndex + 1 ∧ t.trace = s.trace ∧
          t.codeByte = accumulate Config.params s.pulseIndex 0 s.codeByte
      | .bit1 => s.state = .receiving ∧ t.lastEdge = now ∧ t.pulseIndex = s.pulseIndex + 1 ∧ t.trace = s.trace ∧
          t.codeByte = accumulate Config.params s.pulseIndex 1 s.codeByte

/-- R127: the results at the edges of every window. -/
def Obligations.WindowBoundaryValues : Prop :=
  ∀ (s : State) (now : Micros) (delta : Nat), Legal s → s.lastEdge.toNat + delta = now.toNat →
    (s.state = .awaitStart → delta = 7000 ∨ delta = 11000 ∨ delta = 40000 →
      ∃ t, exec (.edge now) s = .next t ∧ t.state = .awaitFirst ∧ t.trace = .abort .startMarker now :: s.trace) ∧
    (s.state = .awaitStart → delta = 7001 ∨ delta = 10999 →
      ∃ t, exec (.edge now) s = .next t ∧ t.state = .receiving ∧ t.trace = s.trace) ∧
    (s.state = .receiving → delta = 980 ∨ delta = 2520 ∨ delta = 40000 →
      ∃ t, exec (.edge now) s = .next t ∧ t.state = .awaitFirst ∧ t.trace = .abort .dataInterval now :: s.trace) ∧
    (s.state = .receiving → delta = 981 ∨ delta = 1480 →
      ∃ t, exec (.edge now) s = .next t ∧ t.pulseIndex = s.pulseIndex + 1 ∧ t.trace = s.trace ∧
        t.codeByte = accumulate Config.params s.pulseIndex 0 s.codeByte) ∧
    (s.state = .receiving → delta = 1481 ∨ delta = 1519 ∨ delta = 1520 ∨ delta = 2519 →
      ∃ t, exec (.edge now) s = .next t ∧ t.pulseIndex = s.pulseIndex + 1 ∧ t.trace = s.trace ∧
        t.codeByte = accumulate Config.params s.pulseIndex 1 s.codeByte) ∧
    (s.state = .awaitStart ∨ s.state = .receiving → delta = 40001 →
      ∃ t, exec (.edge now) s = .next t ∧ t.state = .awaitStart ∧ t.lastEdge = now ∧ t.pulseIndex = 0 ∧
        t.codeByte = 0 ∧ t.trace = .abort .staleGap now :: s.trace)

/-- R128: the same timestamp twice is never a symbol. -/
def Obligations.SameTimestampTwice : Prop :=
  ∀ s : State, Legal s →
    (s.state = .awaitStart → ∃ t, exec (.edge s.lastEdge) s = .next t ∧ t.state = .awaitFirst ∧
      t.trace = .abort .startMarker s.lastEdge :: s.trace) ∧
    (s.state = .receiving → ∃ t, exec (.edge s.lastEdge) s = .next t ∧ t.state = .awaitFirst ∧
      t.trace = .abort .dataInterval s.lastEdge :: s.trace) ∧
    (s.state = .awaitFirst → ∃ t, exec (.edge s.lastEdge) s = .next t ∧ t.state = .awaitStart ∧
      t.lastEdge = s.lastEdge ∧ t.trace = s.trace)

/-- R125: an edge recorded at time 0 is a real edge; the next interval is measured from it. -/
def Obligations.EdgeAtTimeZero : Prop :=
  ∀ (s : State) (now : Micros), Legal s → s.state = .awaitFirst → 7000 < now.toNat → now.toNat < 11000 →
    ∃ t u, exec (.edge 0) s = .next t ∧ t.state = .awaitStart ∧ t.lastEdge = 0 ∧
      exec (.edge now) t = .next u ∧ u.state = .receiving ∧ u.lastEdge = now

/-- R35: within a frame attempt `pulse_index` never decreases: an operation that lowers it has performed `ResetCore()`, and
the index is then 0. -/
def Obligations.PulseIndexNeverDecreases : Prop :=
  ∀ (i : Instr) (s t : State), exec i s = .next t → t.pulseIndex.toNat < s.pulseIndex.toNat →
    t.pulseIndex = 0 ∧ t.codeByte = 0 ∧
      (t.state = .awaitFirst ∧ t.lastEdge = 0 ∨ t.state = .awaitStart ∧ i = .edge t.lastEdge)

/-! ### The frame -/

/-- R62, R124: from the start of reception, 32 edges whose intervals carry 32 bits, whatever the bits, complete the
frame, and `code_byte` holds the bits of pulse indices 16 to 23 in arrival order, first most significant. -/
def Obligations.FrameDeliversCode : Prop :=
  ∀ (s : State) (edges : List Micros) (bits : List Bit), Legal s → s.state = .receiving → s.pulseIndex = 0 →
    bits.length = 32 → carries s.lastEdge edges bits = true →
    ∃ t, runOps exec (edges.map .edge) s = .next t ∧ t.state = .frameReady ∧ t.pulseIndex = 32 ∧
      t.codeByte.toNat = bitsValue ((bits.drop 16).take 8) ∧ edges.getLast? = some t.lastEdge ∧
      t.lastAccepted = s.lastAccepted ∧ t.statusQ = s.statusQ ∧ t.trace = s.trace ∧ t.cmd = none

/-- From R33: while bits arrive, `code_byte` is the code bits so far followed by one 0 (none stored: 0; all eight: the byte), and
`last_edge` is the last edge's time. -/
def Obligations.PartialFrameHoldsBits : Prop :=
  ∀ (s : State) (edges : List Micros) (bits : List Bit), Legal s → s.state = .receiving → s.pulseIndex = 0 →
    bits.length ≤ 31 → carries s.lastEdge edges bits = true →
    ∃ t, runOps exec (edges.map .edge) s = .next t ∧ t.state = .receiving ∧ t.pulseIndex.toNat = bits.length ∧
      (edges.getLast?).getD s.lastEdge = t.lastEdge ∧
      (bits.length ≤ 16 → t.codeByte = 0) ∧
      (16 < bits.length → bits.length < 24 → t.codeByte.toNat = 2 * bitsValue (bits.drop 16)) ∧
      (24 ≤ bits.length → t.codeByte.toNat = bitsValue ((bits.drop 16).take 8))

/-- R86, with R115, R116, R123 and R62 for what they leave: a frame on the edge input is 34 falling edges: one that gives no
interval, one that closes the start marker, and 32 that close data intervals. -/
def Obligations.FrameIsThirtyFourEdges : Prop :=
  ∀ (s : State) (first second : Micros) (edges : List Micros) (bits : List Bit), Legal s → s.state = .awaitFirst →
    first.toNat ≤ second.toNat → 7000 < second.toNat - first.toNat → second.toNat - first.toNat < 11000 →
    bits.length = 32 → carries second edges bits = true →
    ∃ t, runOps exec ((first :: second :: edges).map .edge) s = .next t ∧ (first :: second :: edges).length = 34 ∧
      t.state = .frameReady ∧ t.codeByte.toNat = bitsValue ((bits.drop 16).take 8) ∧ t.trace = s.trace

/-- R92: the pseudo-instruction `FRAME t0, bits, s0, s1, ss` with intervals that the windows take for a 0, a 1 and a start marker,
its defaults among them, where the µs counter does not wrap inside it: 34 edges, after which the code field is
`bits[15:8]`. -/
def Obligations.FramePseudoInstruction : Prop :=
  ∀ (s : State) (t0 : Micros) (bits : BitVec 32) (s0 s1 ss : Micros), Legal s → s.state = .awaitFirst →
    980 < s0.toNat → s0.toNat ≤ 1480 → 1480 < s1.toNat → s1.toNat < 2520 → 7000 < ss.toNat → ss.toNat < 11000 →
    t0.toNat + ss.toNat + 32 * s1.toNat < 2 ^ 32 →
    (frameEdges t0 bits s0 s1 ss).length = 34 ∧
    ∃ t, runOps exec ((frameEdges t0 bits s0 s1 ss).map .edge) s = .next t ∧ t.state = .frameReady ∧
      t.codeByte = bits.extractLsb' 8 8

/-- R129: while a frame is complete, any number of edges change nothing (and idle steps neither); the first edge after the
`ResetCore()` of a RESET or of a POLL is recorded as a first edge. -/
def Obligations.CompleteFrameBlocksEdges : Prop :=
  ∀ (s : State) (ops : List Instr), Legal s → s.state = .frameReady →
    (∀ i ∈ ops, i = .idle ∨ ∃ now, i = .edge now) → ops ≠ [] →
    runOps exec ops s = .next { s with cmd := none } ∧
    (∀ now, ∃ t, runOps exec (ops ++ [.reset, .edge now]) s = .next t ∧ t.state = .awaitStart ∧ t.lastEdge = now ∧
      t.pulseIndex = 0 ∧ t.codeByte = 0 ∧ t.trace = s.trace) ∧
    ∀ m now, ∃ t, runOps exec (ops ++ [.poll m, .edge now]) s = .next t ∧ t.state = .awaitStart ∧ t.lastEdge = now ∧
      t.pulseIndex = 0 ∧ t.codeByte = 0

/-- R245: a frame attempt that gets no further edge stays parked, whatever polls and idle steps come; the next edge after a
stale gap restarts it. -/
def Obligations.PartialFrameStaysParked : Prop :=
  ∀ (s : State) (ops : List Instr) (now : Micros), Legal s → s.state = .awaitStart ∨ s.state = .receiving →
    (∀ i ∈ ops, i = .idle ∨ ∃ m, i = .poll m) → ops ≠ [] →
    runOps exec ops s = .next { s with cmd := none } ∧
    (s.lastEdge.toNat + 40000 < now.toNat →
      ∃ t, runOps exec (ops ++ [.edge now]) s = .next t ∧ t.state = .awaitStart ∧ t.lastEdge = now ∧
        t.pulseIndex = 0 ∧ t.codeByte = 0)

/-! ### POLL and the recognized codes -/

/-- R88: the code map: three recognized codes, each of the other 253 values none; a frame that carries one of those is dropped
and nothing is emitted. -/
def Obligations.CommandCodeMap : Prop :=
  (∀ code : CodeByte,
    (mapCode Config.params code = some .volUp ↔ code = 0xE0#8) ∧
    (mapCode Config.params code = some .volDown ↔ code = 0xD0#8) ∧
    (mapCode Config.params code = some .mute ↔ code = 0xF0#8) ∧
    (mapCode Config.params code = none ↔ code ≠ 0xE0#8 ∧ code ≠ 0xD0#8 ∧ code ≠ 0xF0#8)) ∧
  (∀ (s : State) (m : Millis), Legal s → s.state = .frameReady → mapCode Config.params s.codeByte = none →
    ∃ t, exec (.poll m) s = .next t ∧ t.cmd = none ∧ t.state = .awaitFirst)

/-- R89, R42: what the port `cmd_id` shows while `cmd_valid = 1`; 0b00 is no command. -/
def Obligations.CommandIdentifiers : Prop :=
  ∀ s : State,
    (s.cmd = some .volUp → cmdValid s = true ∧ cmdIdPort s = 0b01#2) ∧
    (s.cmd = some .volDown → cmdValid s = true ∧ cmdIdPort s = 0b10#2) ∧
    (s.cmd = some .mute → cmdValid s = true ∧ cmdIdPort s = 0b11#2) ∧
    (cmdIdPort s = 0b00#2 → cmdValid s = false)

/-- R151: a POLL that finds no completed frame writes nothing and emits nothing. -/
def Obligations.PollNotReady : Prop :=
  ∀ (s : State) (m : Millis), Legal s → s.state ≠ .frameReady → exec (.poll m) s = .next { s with cmd := none }

/-- R152: a POLL that finds a completed frame frees the channel whatever happens to the command; it takes the code from before
the reset. -/
def Obligations.PollFreesChannel : Prop :=
  ∀ (s : State) (m : Millis), Legal s → s.state = .frameReady →
    ∃ t, exec (.poll m) s = .next t ∧ t.state = .awaitFirst ∧ t.codeByte = 0 ∧ t.pulseIndex = 0 ∧ t.lastEdge = 0 ∧
      t = dispatch Config.params (mapCode Config.params s.codeByte) m
        { s with state := .awaitFirst, codeByte := 0, pulseIndex := 0, lastEdge := 0, cmd := none }

/-- R153: an unrecognized code is dropped, and the debounce baseline is neither read nor written, wrapped or not. -/
def Obligations.PollUnrecognizedCode : Prop :=
  ∀ (s : State) (m : Millis), Legal s → s.state = .frameReady →
    s.codeByte ≠ 0xE0#8 → s.codeByte ≠ 0xD0#8 → s.codeByte ≠ 0xF0#8 →
    exec (.poll m) s = .next
      { s with
        state := .awaitFirst, codeByte := 0, pulseIndex := 0, lastEdge := 0, cmd := none,
        trace := .drop .unrecognized m :: s.trace }

/-- R154: with no baseline a recognized command is emitted at once, at whatever time. -/
def Obligations.PollWithoutBaseline : Prop :=
  ∀ (s : State) (m : Millis) (c : Command), Legal s → s.state = .frameReady →
    mapCode Config.params s.codeByte = some c → s.lastAccepted = 0 →
    exec (.poll m) s = .next
      { s with
        state := .awaitFirst, codeByte := 0, pulseIndex := 0, lastEdge := 0, cmd := some c, lastAccepted := m }

/-- R155: a wall-clock wrap drops a recognized command and clears the baseline; the next recognized command has none. The same of the block with clocks
of any width (R11). -/
def Obligations.PollWallClockWrap : Prop :=
  (∀ (s : State) (m : Millis) (c : Command), Legal s → s.state = .frameReady →
    mapCode Config.params s.codeByte = some c → m.toNat < s.lastAccepted.toNat →
    exec (.poll m) s = .next
      { s with
        state := .awaitFirst, codeByte := 0, pulseIndex := 0, lastEdge := 0, cmd := none, lastAccepted := 0,
        trace := .drop .wallClockWrap m :: s.trace }) ∧
  (∀ (wUs wMs : Nat) (s : State wUs wMs) (m : Millis wMs) (c : Command), Legal s → s.state = .frameReady →
    mapCode Config.params s.codeByte = some c → m.toNat < s.lastAccepted.toNat →
    perform Config.params (.poll m) s = .next
      { s with
        state := .awaitFirst, codeByte := 0, pulseIndex := 0, lastEdge := 0, cmd := none, lastAccepted := 0,
        trace := .drop .wallClockWrap m :: s.trace })

/-- R156: less than 200 ms after the baseline a recognized command is dropped and the baseline stays; a gap of exactly 200 ms is
accepted. -/
def Obligations.PollDebounceInterval : Prop :=
  ∀ (s : State) (m : Millis) (c : Command), Legal s → s.state = .frameReady →
    mapCode Config.params s.codeByte = some c → s.lastAccepted ≠ 0 → s.lastAccepted.toNat ≤ m.toNat →
    (m.toNat - s.lastAccepted.toNat < 200 →
      exec (.poll m) s = .next
        { s with
          state := .awaitFirst, codeByte := 0, pulseIndex := 0, lastEdge := 0, cmd := none,
          trace := .drop .interval m :: s.trace }) ∧
    (m.toNat - s.lastAccepted.toNat = 200 → ∃ t, exec (.poll m) s = .next t ∧ t.cmd = some c)

/-- R157: a recognized command that is not dropped is driven on the port for this step and becomes the baseline. -/
def Obligations.PollEmits : Prop :=
  ∀ (s : State) (m : Millis) (c : Command), Legal s → s.state = .frameReady →
    mapCode Config.params s.codeByte = some c →
    s.lastAccepted = 0 ∨ s.lastAccepted.toNat + 200 ≤ m.toNat →
    ∃ t, exec (.poll m) s = .next t ∧ cmdValid t = true ∧ cmdIdPort t = commandId c ∧
      t = { s with
        state := .awaitFirst, codeByte := 0, pulseIndex := 0, lastEdge := 0, cmd := some c, lastAccepted := m }

/-- R158: a command emitted at ms time 0 leaves no baseline, so the next recognized command is not debounced. -/
def Obligations.EmitAtTimeZero : Prop :=
  ∀ (s : State) (c : Command), Legal s → s.state = .frameReady → mapCode Config.params s.codeByte = some c →
    s.lastAccepted = 0 →
    ∃ t, exec (.poll 0) s = .next t ∧ t.cmd = some c ∧ t.lastAccepted = 0 ∧
      ∀ (u : State) (d : Command) (m : Millis), Legal u → u.state = .frameReady →
        mapCode Config.params u.codeByte = some d → u.lastAccepted = t.lastAccepted →
        ∃ v, exec (.poll m) u = .next v ∧ v.cmd = some d

/-- R161, with R111, R151 and R152: a POLL never changes a frame that is still being received; a completed frame is consumed exactly
once, by the first POLL after it completes, whatever edges come before that POLL: the POLL takes the frame away, and the next
POLL finds nothing and writes nothing. -/
def Obligations.FrameConsumedOnce : Prop :=
  (∀ (s : State) (m : Millis), Legal s → s.state ≠ .frameReady → exec (.poll m) s = .next { s with cmd := none }) ∧
  (∀ (s : State) (edges : List Micros) (m n : Millis), Legal s → s.state = .frameReady →
    ∃ t, runOps exec (edges.map .edge ++ [.poll m]) s = .next t ∧ exec (.poll m) s = .next t ∧
      t.state = .awaitFirst ∧ t.codeByte = 0 ∧ t.pulseIndex = 0 ∧ t.lastEdge = 0 ∧
      exec (.poll n) t = .next { t with cmd := none })

/-- R88 with R151 to R157 (the model's reading of a CMD8 row, log entry 8): each of the three code words, executed where a frame
is complete, frees the channel and emits its command at the time of the port `ms_now`, unless the debounce drops it;
where no frame is complete it does nothing. -/
def Obligations.CodeWordsDispatch : Prop :=
  ∀ (s : State) (i : Instr) (c : Command), Legal s →
    (i, c) ∈ [(Instr.codeVolUp, Command.volUp), (.codeVolDown, .volDown), (.codeMute, .mute)] →
    (s.state ≠ .frameReady → exec i s = .next { s with cmd := none }) ∧
    (s.state = .frameReady → s.lastAccepted = 0 ∨ s.lastAccepted.toNat + 200 ≤ s.ports.msNow.toNat →
      exec i s = .next
        { s with
          state := .awaitFirst, codeByte := 0, pulseIndex := 0, lastEdge := 0, cmd := some c,
          lastAccepted := s.ports.msNow }) ∧
    (s.state = .frameReady → s.ports.msNow.toNat < s.lastAccepted.toNat →
      exec i s = .next
        { s with
          state := .awaitFirst, codeByte := 0, pulseIndex := 0, lastEdge := 0, cmd := none, lastAccepted := 0,
          trace := .drop .wallClockWrap s.ports.msNow :: s.trace }) ∧
    (s.state = .frameReady → s.lastAccepted ≠ 0 → s.lastAccepted.toNat ≤ s.ports.msNow.toNat →
      s.ports.msNow.toNat < s.lastAccepted.toNat + 200 →
      exec i s = .next
        { s with
          state := .awaitFirst, codeByte := 0, pulseIndex := 0, lastEdge := 0, cmd := none,
          trace := .drop .interval s.ports.msNow :: s.trace })

/-- R88, R152 (with log entry 8): a POLL executes the word of format CMD8 that the completed frame carries, and drops the frame where
the decoder rejects it. -/
def Obligations.PollExecutesCodeWord : Prop :=
  ∀ (s : State) (m : Millis), Legal s → s.state = .frameReady → s.ports.msNow = m →
    (∀ i, decode (.cmd8 s.codeByte) = .ok i → exec (.poll m) s = exec i s) ∧
    (∀ e, decode (.cmd8 s.codeByte) = .error e →
      ∃ t, exec (.poll m) s = .next t ∧ t.cmd = none ∧ t.trace = .drop .unrecognized m :: s.trace)

/-- R159: two consecutive emitted commands, the first at a time other than 0 and no wrap drop between them, are at least 200 ms
apart by the counter's values. -/
def Obligations.CommandSpacing : Prop :=
  ∀ (s s1 s2 t2 : State) (m1 m2 : Millis), exec (.poll m1) s = .next s1 → cmdValid s1 = true → QuietRun s1 s2 →
    exec (.poll m2) s2 = .next t2 → cmdValid t2 = true → m1 ≠ 0 →
    m1.toNat ≤ m2.toNat ∧ 200 ≤ m2.toNat - m1.toNat

/-! ### The whole machine -/

/-- R31 to R34: what a legal state is, with the code bits of R33 as bits. -/
def Obligations.LegalStatesAreTheInvariants : Prop :=
  ∀ s : State, Legal s ↔
    (s.state = .awaitFirst → s.codeByte = 0 ∧ s.pulseIndex = 0 ∧ s.lastEdge = 0) ∧
    (s.state = .awaitStart → s.codeByte = 0 ∧ s.pulseIndex = 0) ∧
    (s.state = .receiving → s.pulseIndex.toNat ≤ 31 ∧
      ∃ bits : List Bit, bits.length = min (max (s.pulseIndex.toNat - 16) 0) 8 ∧
        s.codeByte.toNat = if bits.length < 8 then 2 * bitsValue bits else bitsValue bits) ∧
    (s.state = .frameReady → s.pulseIndex = 32)

/-- R36: a state that breaks R31 to R34 cannot be reached: power-on reset and every operation leave a legal state. An operation
from such a state is refused, by name; such are an index from 33 to 63, and a code in AWAIT_FIRST. -/
def Obligations.UnreachableStatesRefused : Prop :=
  Legal State.reset ∧ (∀ s : State, Legal (powerOnReset s)) ∧ (∀ (i : Instr) (s t : State), exec i s = .next t → Legal t) ∧
  (∀ (i : Instr) (s : State), ¬ Legal s → exec i s = .refused .unreachableState) ∧
    (∀ s : State, 33 ≤ s.pulseIndex.toNat → ¬ Legal s) ∧
    (∀ s : State, s.state = .awaitFirst → s.codeByte ≠ 0 → ¬ Legal s)

/-- R201: no cause is fatal: from every legal state every operation goes on, in a legal state; after an abort other than a stale
gap, and after every drop, the decoder is in its initial state; and there is no fault. -/
def Obligations.EveryOperationGoesOn : Prop :=
  (Fault → False) ∧ ∀ (i : Instr) (s : State), Legal s →
    ∃ t, exec i s = .next t ∧ Legal t ∧
      ∀ e, t.trace = e :: s.trace → t.state = .awaitFirst ∨ ∃ now, e = .abort .staleGap now ∧ t.state = .awaitStart

/-- R31 to R34, R26 and R201: every step from a state with the invariant answers a next state with the invariant, whatever the host
gives and in whatever order the operations of the step run; the same of the block with clocks of any width (R11). -/
def Obligations.StepKeepsInvariant : Prop :=
  (∀ s : State, SoundState s → Safe (step s) ∧ ∀ o : Config.StrobeOrder, Safe (stepInOrder exec o s)) ∧
  (∀ (wUs wMs : Nat) (s : State wUs wMs), SoundState s →
    Safe (blockStep Config.params s) ∧ ∀ o : Config.StrobeOrder, Safe (stepInOrder (perform Config.params) o s))

/-- The invariant holds after power-on reset. -/
def Obligations.InvariantAfterReset : Prop := SoundState State.reset

/-- R30, R26: who writes what: EDGE and RESET never write the baseline, no operation writes the status register, and POLL writes
decoder registers only by `ResetCore()`. -/
def Obligations.RegisterWriters : Prop :=
  ∀ (i : Instr) (s t : State), exec i s = .next t →
    t.statusQ = s.statusQ ∧ statusOut t = t.statusQ ∧ t.ports = s.ports ∧ t.inputs = s.inputs ∧
    t.freeIndex = s.freeIndex ∧
    ((i = .idle ∨ i = .reset ∨ ∃ now, i = .edge now) → t.lastAccepted = s.lastAccepted ∧ t.cmd = none) ∧
    ((i = .idle ∨ i = .reset ∨ (∃ m, i = .poll m) ∨ i = .codeVolUp ∨ i = .codeVolDown ∨ i = .codeMute) →
      t.state = s.state ∧ t.codeByte = s.codeByte ∧ t.pulseIndex = s.pulseIndex ∧ t.lastEdge = s.lastEdge ∨
        t.state = .awaitFirst ∧ t.codeByte = 0 ∧ t.pulseIndex = 0 ∧ t.lastEdge = 0)

/-- R210: only the polling context touches the debounce baseline: an operation the interrupt context may issue gives the same
decoder whatever the baseline is, and keeps it. -/
def Obligations.InterruptContextBlindToBaseline : Prop :=
  ∀ (i : Instr) (s t : State) (m : Millis), Context.interrupt.issues i = true → exec i s = .next t →
    exec i { s with lastAccepted := m } = .next { t with lastAccepted := m }

/-- R200, R205, R206, R208: an operation reports at most one cause, with its own operand; an abort other than a stale gap leaves
exactly `ResetCore()` behind. -/
def Obligations.OneCausePerOperation : Prop :=
  ∀ (i : Instr) (s t : State), exec i s = .next t →
    t.trace = s.trace ∨
    (∃ c now, i = .edge now ∧ t.trace = .abort c now :: s.trace ∧
      (c ≠ .staleGap → t = { resetCore s with cmd := none, trace := .abort c now :: s.trace }) ∧
      (c = .startMarker → s.state = .awaitStart) ∧ (c = .dataInterval → s.state = .receiving) ∧
      (c = .wraparound ∨ c = .staleGap → s.state = .awaitStart ∨ s.state = .receiving)) ∨
    (∃ c m, (i = .poll m ∨ (i = .codeVolUp ∨ i = .codeVolDown ∨ i = .codeMute) ∧ m = s.ports.msNow) ∧
      t.trace = .drop c m :: s.trace ∧ s.state = .frameReady ∧ t.cmd = none ∧
      (c ≠ .wallClockWrap → t.lastAccepted = s.lastAccepted) ∧ (c = .wallClockWrap → t.lastAccepted = 0))

/-- R42: `cmd_valid` is 1 only after a POLL that emits (or the code word it executes); in a step of several operations it is 1 if
any of them emits; a step holds at most one POLL; `status_out` is `status_q`. That `cmd_id` is the free value `freeCmdId` while
`cmd_valid = 0` is the model's own choice, log entry 4. -/
def Obligations.CommandOutputs : Prop :=
  (∀ (i : Instr) (s t : State), exec i s = .next t → cmdValid t = true →
    ((∃ m, i = .poll m) ∨ i = .codeVolUp ∨ i = .codeVolDown ∨ i = .codeMute) ∧ s.state = .frameReady) ∧
  (∀ (i : Instr) (rest : List Instr) (s t u v : State), exec i s = .next t → runOps exec rest t = .next u →
    runOps exec (i :: rest) s = .next v → (cmdValid v = true ↔ cmdValid t = true ∨ rest ≠ [] ∧ cmdValid u = true)) ∧
  (∀ (o : Config.StrobeOrder) (p : Ports),
    ((stepOps o p).filter fun i => match i with | .poll _ => true | _ => false).length ≤ 1) ∧
  (∀ s : State, cmdValid s = false → cmdIdPort s = Config.freeCmdId s.freeIndex) ∧
  (∀ s : State, statusOut s = s.statusQ)

/-! ### Steps and encodings -/

/-- R80, R81: a step whose input is an operation word runs the instruction the word decodes to, after the input has been taken: it
is gone from the host's inputs, the ports show its strobe, and the free values move on. -/
def Obligations.StepRunsDecodedWord : Prop :=
  ∀ (s : State) (w : OpWord) (rest : List Input) (i : Instr), s.inputs = .word w :: rest → decode (.opw w) = .ok i →
    step s = exec i
      { s with inputs := rest, ports := strobesOf s.ports i, freeIndex := s.freeIndex + 1 }

/-- R41: each strobe set alone runs its operation, and no strobe is IDLE; with several, the step runs their operations one after
another in some order, and every order of them is an order it can take; power-on reset overrides every strobe. -/
def Obligations.StrobesBecomeOperations : Prop :=
  (∀ (s : State) (p : Ports) (rest : List Input), s.inputs = .ports p :: rest → p.por = true →
    step s = .next (powerOnReset { s with inputs := rest, ports := p, freeIndex := s.freeIndex + 1 })) ∧
  (∀ (s : State) (p : Ports) (rest : List Input), s.inputs = .ports p :: rest → p.por = false →
    (p.edgeValid = true → p.pollValid = false → p.resetReq = false →
      step s = exec (.edge p.edgeTs) { s with inputs := rest, ports := p, freeIndex := s.freeIndex + 1 }) ∧
    (p.edgeValid = false → p.pollValid = true → p.resetReq = false →
      step s = exec (.poll p.msNow) { s with inputs := rest, ports := p, freeIndex := s.freeIndex + 1 }) ∧
    (p.edgeValid = false → p.pollValid = false → p.resetReq = true →
      step s = exec .reset { s with inputs := rest, ports := p, freeIndex := s.freeIndex + 1 }) ∧
    (p.edgeValid = false → p.pollValid = false → p.resetReq = false →
      step s = exec .idle { s with inputs := rest, ports := p, freeIndex := s.freeIndex + 1 }) ∧
    ∃ o, step s = runOps exec (stepOps o p) { s with inputs := rest, ports := p, freeIndex := s.freeIndex + 1 }) ∧
  (∀ p : Ports, p.edgeValid = true ∨ p.pollValid = true ∨ p.resetReq = true →
    ∀ ops : List Instr, (∃ o, stepOps o p = ops) ↔
      ops.Perm ((if p.edgeValid then [.edge p.edgeTs] else []) ++ (if p.pollValid then [.poll p.msNow] else []) ++
        if p.resetReq then [.reset] else []))

/-- R41, R183 with log entry 9: a step for which the host gives nothing is IDLE. -/
def Obligations.SilentHostIdles : Prop :=
  ∀ s : State, s.inputs = [] → Legal s →
    ∃ t, step s = .next t ∧ t.state = s.state ∧ t.codeByte = s.codeByte ∧ t.pulseIndex = s.pulseIndex ∧
      t.lastEdge = s.lastEdge ∧ t.lastAccepted = s.lastAccepted ∧ t.statusQ = s.statusQ ∧ t.cmd = none ∧
      t.trace = s.trace ∧ t.inputs = []

/-- R207: an edge and a poll that find a completed frame in one step: edge first leaves AWAIT_FIRST, poll first leaves AWAIT_START;
the step does one of the two, and each is the step in some order. -/
def Obligations.EdgeAndPollInOneStep : Prop :=
  ∀ (s : State) (p : Ports) (rest : List Input), s.inputs = .ports p :: rest → p.por = false →
    p.edgeValid = true → p.pollValid = true → p.resetReq = false → Legal s → s.state = .frameReady →
    (∃ t, stepInOrder exec .edgePollReset s = .next t ∧ t.state = .awaitFirst ∧ t.lastEdge = 0) ∧
    (∃ t, stepInOrder exec .pollEdgeReset s = .next t ∧ t.state = .awaitStart ∧ t.lastEdge = p.edgeTs) ∧
    (step s = stepInOrder exec .edgePollReset s ∨ step s = stepInOrder exec .pollEdgeReset s)

/-- R80 to R83, R88: decoding the word of an instruction gives the instruction back, every operand at every value; the same for
clocks of any width (R11). -/
def Obligations.DecodeAfterEncode : Prop :=
  (∀ i : Instr, i.wellFormed = true → decode (encode i) = .ok i) ∧
  (∀ (wUs wMs : Nat) (i : Instr wUs wMs), i.wellFormed = true → decodeWord (encode i) = .ok i)

/-- R82, R83: every operation word decodes, by its `op` alone; EDGE and POLL take their operand from the low bits of `arg` and ignore
those above its width (there are such bits where `W_US` and `W_MS` differ), IDLE and RESET ignore `arg`, and their canonical
words have `arg = 0`. First at the built widths, then at any. -/
def Obligations.EveryOperationWordDecodes : Prop :=
  (∀ (arg : BitVec 32),
    decode (.opw (arg ++ 0b00#2)) = .ok .idle ∧ decode (.opw (arg ++ 0b01#2)) = .ok (.edge arg) ∧
    decode (.opw (arg ++ 0b10#2)) = .ok (.poll arg) ∧ decode (.opw (arg ++ 0b11#2)) = .ok .reset) ∧
  (∀ w : OpWord, ∃ i, decode (.opw w) = .ok i ∧ (i = .idle ∨ (∃ now, i = .edge now) ∨ (∃ m, i = .poll m) ∨ i = .reset)) ∧
  encode (.idle : Instr) = .opw ((0 : BitVec 32) ++ 0b00#2) ∧ encode (.reset : Instr) = .opw ((0 : BitVec 32) ++ 0b11#2) ∧
  (∀ (wUs wMs : Nat) (arg : BitVec (max wUs wMs)),
    decodeOp (wUs := wUs) (wMs := wMs) (arg ++ 0b00#2) = .idle ∧
    decodeOp (wUs := wUs) (wMs := wMs) (arg ++ 0b01#2) = .edge (arg.setWidth wUs) ∧
    decodeOp (wUs := wUs) (wMs := wMs) (arg ++ 0b10#2) = .poll (arg.setWidth wMs) ∧
    decodeOp (wUs := wUs) (wMs := wMs) (arg ++ 0b11#2) = .reset)

/-- Words of the spec's worked examples (95_test_vectors.md) and the three code words (R88); a sanity statement. -/
def Obligations.SampleWordsDecode : Prop :=
  decode (.opw 0x8CA1#34) = .ok (.edge 9000) ∧ decode (.opw 0x16#34) = .ok (.poll 5) ∧
    decode (.opw 0x3#34) = .ok .reset ∧ decode (.opw 0x0#34) = .ok .idle ∧
    decode (.cmd8 0xE0#8) = .ok .codeVolUp ∧ decode (.cmd8 0xD0#8) = .ok .codeVolDown ∧
    decode (.cmd8 0xF0#8) = .ok .codeMute

/-- R88: the decoder of code words accepts each of the three as its row and rejects, by name, each other value; an accepted one is
the canonical word of its row. -/
def Obligations.CodeWordsDecodeExactly : Prop :=
  decode (.cmd8 0xE0#8) = .ok .codeVolUp ∧ decode (.cmd8 0xD0#8) = .ok .codeVolDown ∧
  decode (.cmd8 0xF0#8) = .ok .codeMute ∧
  ∀ c : CodeByte,
    (∀ i, decode (.cmd8 c) = .ok i → encode i = .cmd8 c) ∧
    (c ≠ 0xE0#8 → c ≠ 0xD0#8 → c ≠ 0xF0#8 → decode (.cmd8 c) = .error (.unrecognizedCode c))

/-- The placing of a word of the opcode table (log entry 6): from every state, the very next step runs the instruction the word
decodes to. -/
def Obligations.PlacedWordRunsNext : Prop :=
  ∀ (s : State) (nbits w : Nat) (i : Instr), decodeTableWord nbits w = some i →
    step (s.withFetchWord nbits w) = exec i (afterFetch (s.withFetchWord nbits w)) ∧
      (afterFetch (s.withFetchWord nbits w)).inputs = s.inputs

/-- R85, R200: the encoding of `state`, and the cause codes. -/
def Obligations.StateAndCauseCodes : Prop :=
  (ReceiverState.awaitFirst.encoding = 0b00#2 ∧ ReceiverState.awaitStart.encoding = 0b01#2 ∧
    ReceiverState.receiving.encoding = 0b10#2 ∧ ReceiverState.frameReady.encoding = 0b11#2) ∧
  AbortCause.startMarker.code = "1a" ∧ AbortCause.dataInterval.code = "1b" ∧ AbortCause.wraparound.code = "2" ∧
    AbortCause.staleGap.code = "3" ∧ DropCause.unrecognized.code = "4" ∧ DropCause.interval.code = "5a" ∧
    DropCause.wallClockWrap.code = "5b"
end

