-- ==== Sys2Proof/Laws/Decode.lean ====
section
/-! SUPPORT. The fields of an operation word at any widths: taking `op` and `arg` out of `{arg, op}` gives them back (R80, R82), and the
operand of EDGE and POLL is the low bits of `arg` (R82). -/

namespace Sys2Proof

variable {wUs wMs : Nat}

theorem opWord_toNat (a : ArgField wUs wMs) (op : BitVec 2) : (opWord a op).toNat = a.toNat * 4 + op.toNat := by
  have h := op.isLt
  rw [opWord, BitVec.toNat_append, ← Nat.shiftLeft_add_eq_or_of_lt h, Nat.shiftLeft_eq]

@[simp] theorem opField_opWord (a : ArgField wUs wMs) (op : BitVec 2) : opField (opWord a op) = op := by
  have h := op.isLt
  apply BitVec.eq_of_toNat_eq
  rw [opField, BitVec.extractLsb'_toNat, opWord_toNat, Nat.shiftRight_zero]
  omega

@[simp] theorem argField_opWord (a : ArgField wUs wMs) (op : BitVec 2) : argField (opWord a op) = a := by
  have h := op.isLt
  have ha : a.toNat < 2 ^ Config.argWidth wUs wMs := a.isLt
  apply BitVec.eq_of_toNat_eq
  rw [argField, BitVec.extractLsb'_toNat, opWord_toNat, Nat.shiftRight_eq_div_pow,
    show (a.toNat * 4 + op.toNat) / 2 ^ 2 = a.toNat by omega]
  exact Nat.mod_eq_of_lt ha

/-- The low bits of a number put into a field that is no narrower are the number. -/
theorem extractLsb'_setWidth_of_le {n w : Nat} (h : n ≤ w) (x : BitVec n) : (x.setWidth w).extractLsb' 0 n = x :=
  BitVec.eq_of_toNat_eq (by
    rw [BitVec.extractLsb'_toNat, BitVec.toNat_setWidth, Nat.shiftRight_zero,
      Nat.mod_eq_of_lt (lt_of_lt_of_le x.isLt (Nat.pow_le_pow_right (by decide) h))]
    exact Nat.mod_eq_of_lt x.isLt)

@[simp] theorem microsOperand_setWidth (t : Micros wUs) :
    microsOperand (t.setWidth (Config.argWidth wUs wMs)) = t :=
  extractLsb'_setWidth_of_le (Nat.le_max_left _ _) t

@[simp] theorem millisOperand_setWidth (m : Millis wMs) :
    millisOperand (m.setWidth (Config.argWidth wUs wMs)) = m :=
  extractLsb'_setWidth_of_le (Nat.le_max_right _ _) m

/-- What an operation word `{arg, op}` decodes to, by its `op` (R81). -/
theorem decodeOp_opWord (a : ArgField wUs wMs) (op : BitVec 2) :
    decodeOp (opWord a op) =
      if op = 0b00#2 then .idle else if op = 0b01#2 then .edge (microsOperand a)
      else if op = 0b10#2 then .poll (millisOperand a) else .reset := by
  simp only [decodeOp, opField_opWord, argField_opWord]

@[simp] theorem decodeOp_pollWord (m : Millis wMs) :
    decodeOp (pollWord m : OpWord wUs wMs) = .poll m := by
  rw [pollWord, decodeOp_opWord, millisOperand_setWidth]; rfl

@[simp] theorem decodeOp_edgeWord (t : Micros wUs) :
    decodeOp (edgeWord t : OpWord wUs wMs) = .edge t := by
  rw [edgeWord, decodeOp_opWord, microsOperand_setWidth]; rfl

end Sys2Proof
end

