-- ==== Sys2Proof/Laws/Operands.lean ====
section
/-! SUPPORT. The operand computations as arithmetic on numbers: one lemma per function, with the parameters of the machine as
numerals. -/

namespace Sys2Proof.Machine

@[simp] theorem wrapped_eq_true {w : Nat} (last now : BitVec w) : wrapped last now = true ↔ now.toNat < last.toNat := by
  simp [wrapped]

@[simp] theorem wrapped_eq_false {w : Nat} (last now : BitVec w) : wrapped last now = false ↔ last.toNat ≤ now.toNat := by
  simp [wrapped]

/-- Where the time did not go back the interval is the plain difference (R113). -/
theorem elapsed_toNat {w : Nat} {last now : BitVec w} (h : last.toNat ≤ now.toNat) :
    (elapsed last now).toNat = now.toNat - last.toNat :=
  BitVec.toNat_sub_of_le h

@[simp] theorem within_eq_true (lo hi x : Nat) : within lo hi x = true ↔ lo < x ∧ x < hi := by
  simp [within]

theorem stale_params {w : Nat} (d : BitVec w) : stale Config.params d = true ↔ 40000 < d.toNat := by
  exact decide_eq_true_iff

theorem startInterval_params {w : Nat} (d : BitVec w) :
    startInterval Config.params d = true ↔ 7000 < d.toNat ∧ d.toNat < 11000 := by
  simp [startInterval, Config.params]

/-- The classifier with its numbers (R117, R118). -/
theorem classBit_params {w : Nat} (d : BitVec w) :
    classBit Config.params d =
      if 1480 < d.toNat ∧ d.toNat < 2520 then some 1
      else if 980 < d.toNat ∧ d.toNat < 1520 then some 0 else none := by
  simp [classBit, Config.params]

theorem tooSoon_params {w : Nat} (last now : BitVec w) :
    tooSoon Config.params last now = true ↔ (now - last).toNat < 200 := by
  exact decide_eq_true_iff

theorem mapCode_params (c : CodeByte) :
    mapCode Config.params c =
      if c = 0xE0#8 then some .volUp else if c = 0xD0#8 then some .volDown
      else if c = 0xF0#8 then some .mute else none := by
  rfl

/-- The accumulator with its numbers (R120). -/
theorem accumulate_params (i : PulseIndex) (b : Bit) (c : CodeByte) :
    accumulate Config.params i b c =
      if 16 ≤ i.toNat ∧ i.toNat < 23 then (c ||| b.setWidth 8) <<< 1
      else if i.toNat = 23 then c ||| b.setWidth 8 else c := by
  show (if 16 ≤ i.toNat ∧ i.toNat ≤ 23 then
      if i.toNat ≠ 23 then (c ||| b.setWidth 8) <<< 1 else c ||| b.setWidth 8
    else c) = _
  by_cases h : i.toNat = 23
  · simp [h]
  · have : (16 ≤ i.toNat ∧ i.toNat ≤ 23) ↔ (16 ≤ i.toNat ∧ i.toNat < 23) := by omega
    simp only [this, h, ne_eq, not_false_eq_true, if_true, if_false]

end Sys2Proof.Machine
end

