-- ==== Sys2Proof/Laws/State.lean ====
section
/-! SUPPORT. One lemma per field and update: what each shared operation leaves in each field of the state, so that no later proof
unfolds a record update. -/

namespace Sys2Proof.Machine

variable {wUs wMs : Nat}

/-! ### `noCommand` -/

@[simp] theorem noCommand_state (s : State wUs wMs) : (noCommand s).state = s.state := rfl
@[simp] theorem noCommand_codeByte (s : State wUs wMs) : (noCommand s).codeByte = s.codeByte := rfl
@[simp] theorem noCommand_pulseIndex (s : State wUs wMs) : (noCommand s).pulseIndex = s.pulseIndex := rfl
@[simp] theorem noCommand_lastEdge (s : State wUs wMs) : (noCommand s).lastEdge = s.lastEdge := rfl
@[simp] theorem noCommand_lastAccepted (s : State wUs wMs) : (noCommand s).lastAccepted = s.lastAccepted := rfl
@[simp] theorem noCommand_statusQ (s : State wUs wMs) : (noCommand s).statusQ = s.statusQ := rfl
@[simp] theorem noCommand_cmd (s : State wUs wMs) : (noCommand s).cmd = none := rfl
@[simp] theorem noCommand_ports (s : State wUs wMs) : (noCommand s).ports = s.ports := rfl
@[simp] theorem noCommand_inputs (s : State wUs wMs) : (noCommand s).inputs = s.inputs := rfl
@[simp] theorem noCommand_trace (s : State wUs wMs) : (noCommand s).trace = s.trace := rfl
@[simp] theorem noCommand_freeIndex (s : State wUs wMs) : (noCommand s).freeIndex = s.freeIndex := rfl

/-! ### `resetCore` -/

@[simp] theorem resetCore_state (s : State wUs wMs) : (resetCore s).state = .awaitFirst := rfl
@[simp] theorem resetCore_codeByte (s : State wUs wMs) : (resetCore s).codeByte = 0 := rfl
@[simp] theorem resetCore_pulseIndex (s : State wUs wMs) : (resetCore s).pulseIndex = 0 := rfl
@[simp] theorem resetCore_lastEdge (s : State wUs wMs) : (resetCore s).lastEdge = 0 := rfl
@[simp] theorem resetCore_lastAccepted (s : State wUs wMs) : (resetCore s).lastAccepted = s.lastAccepted := rfl
@[simp] theorem resetCore_statusQ (s : State wUs wMs) : (resetCore s).statusQ = s.statusQ := rfl
@[simp] theorem resetCore_cmd (s : State wUs wMs) : (resetCore s).cmd = s.cmd := rfl
@[simp] theorem resetCore_ports (s : State wUs wMs) : (resetCore s).ports = s.ports := rfl
@[simp] theorem resetCore_inputs (s : State wUs wMs) : (resetCore s).inputs = s.inputs := rfl
@[simp] theorem resetCore_trace (s : State wUs wMs) : (resetCore s).trace = s.trace := rfl
@[simp] theorem resetCore_freeIndex (s : State wUs wMs) : (resetCore s).freeIndex = s.freeIndex := rfl

/-! ### `powerOnReset` -/

@[simp] theorem powerOnReset_state (s : State wUs wMs) : (powerOnReset s).state = .awaitFirst := rfl
@[simp] theorem powerOnReset_codeByte (s : State wUs wMs) : (powerOnReset s).codeByte = 0 := rfl
@[simp] theorem powerOnReset_pulseIndex (s : State wUs wMs) : (powerOnReset s).pulseIndex = 0 := rfl
@[simp] theorem powerOnReset_lastEdge (s : State wUs wMs) : (powerOnReset s).lastEdge = 0 := rfl
@[simp] theorem powerOnReset_lastAccepted (s : State wUs wMs) : (powerOnReset s).lastAccepted = 0 := rfl
@[simp] theorem powerOnReset_statusQ (s : State wUs wMs) : (powerOnReset s).statusQ = .inactive := rfl
@[simp] theorem powerOnReset_cmd (s : State wUs wMs) : (powerOnReset s).cmd = none := rfl
@[simp] theorem powerOnReset_ports (s : State wUs wMs) : (powerOnReset s).ports = s.ports := rfl
@[simp] theorem powerOnReset_inputs (s : State wUs wMs) : (powerOnReset s).inputs = s.inputs := rfl
@[simp] theorem powerOnReset_trace (s : State wUs wMs) : (powerOnReset s).trace = s.trace := rfl
@[simp] theorem powerOnReset_freeIndex (s : State wUs wMs) : (powerOnReset s).freeIndex = s.freeIndex := rfl

/-! ### `traceEvent` -/

@[simp] theorem traceEvent_state (e : Event wUs wMs) (s : State wUs wMs) : (traceEvent e s).state = s.state := rfl
@[simp] theorem traceEvent_codeByte (e : Event wUs wMs) (s : State wUs wMs) : (traceEvent e s).codeByte = s.codeByte := rfl
@[simp] theorem traceEvent_pulseIndex (e : Event wUs wMs) (s : State wUs wMs) : (traceEvent e s).pulseIndex = s.pulseIndex := rfl
@[simp] theorem traceEvent_lastEdge (e : Event wUs wMs) (s : State wUs wMs) : (traceEvent e s).lastEdge = s.lastEdge := rfl
@[simp] theorem traceEvent_lastAccepted (e : Event wUs wMs) (s : State wUs wMs) :
    (traceEvent e s).lastAccepted = s.lastAccepted := rfl
@[simp] theorem traceEvent_statusQ (e : Event wUs wMs) (s : State wUs wMs) : (traceEvent e s).statusQ = s.statusQ := rfl
@[simp] theorem traceEvent_cmd (e : Event wUs wMs) (s : State wUs wMs) : (traceEvent e s).cmd = s.cmd := rfl
@[simp] theorem traceEvent_ports (e : Event wUs wMs) (s : State wUs wMs) : (traceEvent e s).ports = s.ports := rfl
@[simp] theorem traceEvent_inputs (e : Event wUs wMs) (s : State wUs wMs) : (traceEvent e s).inputs = s.inputs := rfl
@[simp] theorem traceEvent_trace (e : Event wUs wMs) (s : State wUs wMs) : (traceEvent e s).trace = e :: s.trace := rfl
@[simp] theorem traceEvent_freeIndex (e : Event wUs wMs) (s : State wUs wMs) : (traceEvent e s).freeIndex = s.freeIndex := rfl

/-! ### `emit` -/

@[simp] theorem emit_state (c : Command) (m : Millis wMs) (s : State wUs wMs) : (emit c m s).state = s.state := rfl
@[simp] theorem emit_codeByte (c : Command) (m : Millis wMs) (s : State wUs wMs) : (emit c m s).codeByte = s.codeByte := rfl
@[simp] theorem emit_pulseIndex (c : Command) (m : Millis wMs) (s : State wUs wMs) : (emit c m s).pulseIndex = s.pulseIndex := rfl
@[simp] theorem emit_lastEdge (c : Command) (m : Millis wMs) (s : State wUs wMs) : (emit c m s).lastEdge = s.lastEdge := rfl
@[simp] theorem emit_lastAccepted (c : Command) (m : Millis wMs) (s : State wUs wMs) : (emit c m s).lastAccepted = m := rfl
@[simp] theorem emit_statusQ (c : Command) (m : Millis wMs) (s : State wUs wMs) : (emit c m s).statusQ = s.statusQ := rfl
@[simp] theorem emit_cmd (c : Command) (m : Millis wMs) (s : State wUs wMs) : (emit c m s).cmd = some c := rfl
@[simp] theorem emit_ports (c : Command) (m : Millis wMs) (s : State wUs wMs) : (emit c m s).ports = s.ports := rfl
@[simp] theorem emit_inputs (c : Command) (m : Millis wMs) (s : State wUs wMs) : (emit c m s).inputs = s.inputs := rfl
@[simp] theorem emit_trace (c : Command) (m : Millis wMs) (s : State wUs wMs) : (emit c m s).trace = s.trace := rfl
@[simp] theorem emit_freeIndex (c : Command) (m : Millis wMs) (s : State wUs wMs) : (emit c m s).freeIndex = s.freeIndex := rfl

/-! ### `recordFirst` -/

@[simp] theorem recordFirst_state (now : Micros wUs) (s : State wUs wMs) : (recordFirst now s).state = .awaitStart := rfl
@[simp] theorem recordFirst_codeByte (now : Micros wUs) (s : State wUs wMs) : (recordFirst now s).codeByte = s.codeByte := rfl
@[simp] theorem recordFirst_pulseIndex (now : Micros wUs) (s : State wUs wMs) :
    (recordFirst now s).pulseIndex = s.pulseIndex := rfl
@[simp] theorem recordFirst_lastEdge (now : Micros wUs) (s : State wUs wMs) : (recordFirst now s).lastEdge = now := rfl
@[simp] theorem recordFirst_lastAccepted (now : Micros wUs) (s : State wUs wMs) :
    (recordFirst now s).lastAccepted = s.lastAccepted := rfl
@[simp] theorem recordFirst_statusQ (now : Micros wUs) (s : State wUs wMs) : (recordFirst now s).statusQ = s.statusQ := rfl
@[simp] theorem recordFirst_cmd (now : Micros wUs) (s : State wUs wMs) : (recordFirst now s).cmd = s.cmd := rfl
@[simp] theorem recordFirst_ports (now : Micros wUs) (s : State wUs wMs) : (recordFirst now s).ports = s.ports := rfl
@[simp] theorem recordFirst_inputs (now : Micros wUs) (s : State wUs wMs) : (recordFirst now s).inputs = s.inputs := rfl
@[simp] theorem recordFirst_trace (now : Micros wUs) (s : State wUs wMs) : (recordFirst now s).trace = s.trace := rfl
@[simp] theorem recordFirst_freeIndex (now : Micros wUs) (s : State wUs wMs) : (recordFirst now s).freeIndex = s.freeIndex := rfl

/-! ### `storeBit` -/

@[simp] theorem storeBit_state (p : Config.Params) (b : Bit) (now : Micros wUs) (s : State wUs wMs) :
    (storeBit p b now s).state = if (s.pulseIndex + 1).toNat = p.frameLen then .frameReady else s.state := rfl
@[simp] theorem storeBit_codeByte (p : Config.Params) (b : Bit) (now : Micros wUs) (s : State wUs wMs) :
    (storeBit p b now s).codeByte = accumulate p s.pulseIndex b s.codeByte := rfl
@[simp] theorem storeBit_pulseIndex (p : Config.Params) (b : Bit) (now : Micros wUs) (s : State wUs wMs) :
    (storeBit p b now s).pulseIndex = s.pulseIndex + 1 := rfl
@[simp] theorem storeBit_lastEdge (p : Config.Params) (b : Bit) (now : Micros wUs) (s : State wUs wMs) :
    (storeBit p b now s).lastEdge = now := rfl
@[simp] theorem storeBit_lastAccepted (p : Config.Params) (b : Bit) (now : Micros wUs) (s : State wUs wMs) :
    (storeBit p b now s).lastAccepted = s.lastAccepted := rfl
@[simp] theorem storeBit_statusQ (p : Config.Params) (b : Bit) (now : Micros wUs) (s : State wUs wMs) :
    (storeBit p b now s).statusQ = s.statusQ := rfl
@[simp] theorem storeBit_cmd (p : Config.Params) (b : Bit) (now : Micros wUs) (s : State wUs wMs) :
    (storeBit p b now s).cmd = s.cmd := rfl
@[simp] theorem storeBit_ports (p : Config.Params) (b : Bit) (now : Micros wUs) (s : State wUs wMs) :
    (storeBit p b now s).ports = s.ports := rfl
@[simp] theorem storeBit_inputs (p : Config.Params) (b : Bit) (now : Micros wUs) (s : State wUs wMs) :
    (storeBit p b now s).inputs = s.inputs := rfl
@[simp] theorem storeBit_trace (p : Config.Params) (b : Bit) (now : Micros wUs) (s : State wUs wMs) :
    (storeBit p b now s).trace = s.trace := rfl
@[simp] theorem storeBit_freeIndex (p : Config.Params) (b : Bit) (now : Micros wUs) (s : State wUs wMs) :
    (storeBit p b now s).freeIndex = s.freeIndex := rfl

/-! ### `afterFetch` -/

@[simp] theorem afterFetch_state (s : State wUs wMs) : (afterFetch s).state = s.state := rfl
@[simp] theorem afterFetch_codeByte (s : State wUs wMs) : (afterFetch s).codeByte = s.codeByte := rfl
@[simp] theorem afterFetch_pulseIndex (s : State wUs wMs) : (afterFetch s).pulseIndex = s.pulseIndex := rfl
@[simp] theorem afterFetch_lastEdge (s : State wUs wMs) : (afterFetch s).lastEdge = s.lastEdge := rfl
@[simp] theorem afterFetch_lastAccepted (s : State wUs wMs) : (afterFetch s).lastAccepted = s.lastAccepted := rfl
@[simp] theorem afterFetch_statusQ (s : State wUs wMs) : (afterFetch s).statusQ = s.statusQ := rfl
@[simp] theorem afterFetch_cmd (s : State wUs wMs) : (afterFetch s).cmd = s.cmd := rfl
@[simp] theorem afterFetch_ports (s : State wUs wMs) : (afterFetch s).ports = portsOf s.ports (nextInput s) := rfl
@[simp] theorem afterFetch_inputs (s : State wUs wMs) : (afterFetch s).inputs = s.inputs.tail := rfl
@[simp] theorem afterFetch_trace (s : State wUs wMs) : (afterFetch s).trace = s.trace := rfl
@[simp] theorem afterFetch_freeIndex (s : State wUs wMs) : (afterFetch s).freeIndex = s.freeIndex + 1 := rfl

end Sys2Proof.Machine
end

