-- ==== Sys2Proof/Laws/Exec.lean ====
section
/-! SUPPORT. What an instruction can do, said once: the block answers its `effect` from a legal state and refuses any other, `exec` is the block as built, and the
effect of EDGE and of the dispatcher is one of a few named cases. -/

namespace Sys2Proof.Machine

variable {wUs wMs : Nat}

/-! ### The machine as built -/

/-- The machine of `exec` is the block with the parameters and the widths of Config.lean. -/
theorem exec_eq_perform (i : Instr) (s : State) : exec i s = perform Config.params i s := by
  cases i <;> rfl

theorem exec_eq_perform_fun : exec = perform Config.params := funext fun i => funext fun s => exec_eq_perform i s

theorem step_eq_blockStep (s : State) : step s = blockStep Config.params s := by
  rw [step, blockStep, exec_eq_perform_fun]

/-! ### What an instruction can do -/

theorem perform_of_legal {p : Config.Params} {i : Instr wUs wMs} {s : State wUs wMs} (h : legal p s = true) :
    perform p i s = .next (effect p i s) := by
  rw [perform, fromReachable, if_pos h]

theorem perform_of_not_legal {p : Config.Params} {i : Instr wUs wMs} {s : State wUs wMs} (h : ¬ legal p s = true) :
    perform p i s = .refused .unreachableState := by
  rw [perform, fromReachable, if_neg h]

/-- The inversion of `perform`: a next state comes only from a legal state, and it is the effect. -/
theorem perform_next_iff {p : Config.Params} {i : Instr wUs wMs} {s t : State wUs wMs} :
    perform p i s = .next t ↔ legal p s = true ∧ t = effect p i s := by
  by_cases h : legal p s = true
  · rw [perform_of_legal h]; simp [h, eq_comm]
  · rw [perform_of_not_legal h]; simp [h]

theorem exec_of_legal {i : Instr} {s : State} (h : legal Config.params s = true) :
    exec i s = .next (effect Config.params i s) := by
  rw [exec_eq_perform, perform_of_legal h]

theorem exec_of_not_legal {i : Instr} {s : State} (h : ¬ legal Config.params s = true) :
    exec i s = .refused .unreachableState := by
  rw [exec_eq_perform, perform_of_not_legal h]

/-- The inversion of `exec`. -/
theorem exec_next_iff {i : Instr} {s t : State} :
    exec i s = .next t ↔ legal Config.params s = true ∧ t = effect Config.params i s := by
  rw [exec_eq_perform, perform_next_iff]

/-! ### EDGE -/

/-- The gate (R111). -/
theorem fallingEdge_ready {p : Config.Params} {now : Micros wUs} {s : State wUs wMs} (h : s.state = .frameReady) :
    fallingEdge p now s = s := by
  simp [fallingEdge, frameReady, h]

/-- The wraparound check (R112). -/
theorem fallingEdge_wrapped {p : Config.Params} {now : Micros wUs} {s : State wUs wMs} (h : s.state ≠ .frameReady)
    (hw : now.toNat < s.lastEdge.toNat) : fallingEdge p now s = abortFrame .wraparound now s := by
  simp [fallingEdge, frameReady, h, hw]

/-- The stale check (R114), in AWAIT_FIRST without an event (R126). -/
theorem fallingEdge_stale {p : Config.Params} {now : Micros wUs} {s : State wUs wMs} (h : s.state ≠ .frameReady)
    (hw : s.lastEdge.toNat ≤ now.toNat) (hs : stale p (elapsed s.lastEdge now) = true) :
    fallingEdge p now s =
      recordFirst now (resetCore (if s.state = .awaitFirst then s else traceEvent (.abort .staleGap now) s)) := by
  simp [fallingEdge, frameReady, h, (wrapped_eq_false _ _).2 hw, resetIfStale, hs, edgeByState]

/-- An edge that passes the gate and the global checks meets the state rule (R110). -/
theorem fallingEdge_fresh {p : Config.Params} {now : Micros wUs} {s : State wUs wMs} (h : s.state ≠ .frameReady)
    (hw : s.lastEdge.toNat ≤ now.toNat) (hs : stale p (elapsed s.lastEdge now) = false) :
    fallingEdge p now s = edgeByState p (elapsed s.lastEdge now) now s := by
  simp [fallingEdge, frameReady, h, (wrapped_eq_false _ _).2 hw, resetIfStale, hs]

/-- Everything an edge can do. -/
theorem fallingEdge_cases (p : Config.Params) (now : Micros wUs) (s : State wUs wMs) :
    (s.state = .frameReady ∧ fallingEdge p now s = s) ∨
    (s.state ≠ .frameReady ∧ now.toNat < s.lastEdge.toNat ∧ fallingEdge p now s = abortFrame .wraparound now s) ∨
    (s.state ≠ .frameReady ∧ s.lastEdge.toNat ≤ now.toNat ∧ stale p (elapsed s.lastEdge now) = true ∧
      fallingEdge p now s =
        recordFirst now (resetCore (if s.state = .awaitFirst then s else traceEvent (.abort .staleGap now) s))) ∨
    (s.state = .awaitFirst ∧ stale p (elapsed s.lastEdge now) = false ∧ fallingEdge p now s = recordFirst now s) ∨
    (s.state = .awaitStart ∧ s.lastEdge.toNat ≤ now.toNat ∧ stale p (elapsed s.lastEdge now) = false ∧
      fallingEdge p now s = confirmStart p (elapsed s.lastEdge now) now s) ∨
    (s.state = .receiving ∧ s.lastEdge.toNat ≤ now.toNat ∧ stale p (elapsed s.lastEdge now) = false ∧
      fallingEdge p now s = receiveBit p (elapsed s.lastEdge now) now s) := by
  by_cases hr : s.state = .frameReady
  · exact .inl ⟨hr, fallingEdge_ready hr⟩
  by_cases hw : now.toNat < s.lastEdge.toNat
  · exact .inr (.inl ⟨hr, hw, fallingEdge_wrapped hr hw⟩)
  have hle : s.lastEdge.toNat ≤ now.toNat := by omega
  cases hs : stale p (elapsed s.lastEdge now) with
  | true => exact .inr (.inr (.inl ⟨hr, hle, rfl, fallingEdge_stale hr hle hs⟩))
  | false =>
    have hf := fallingEdge_fresh hr hle hs
    cases hst : s.state with
    | awaitFirst => exact .inr (.inr (.inr (.inl ⟨rfl, rfl, by rw [hf, edgeByState, hst]⟩)))
    | awaitStart => exact .inr (.inr (.inr (.inr (.inl ⟨rfl, hle, rfl, by rw [hf, edgeByState, hst]⟩))))
    | receiving => exact .inr (.inr (.inr (.inr (.inr ⟨rfl, hle, rfl, by rw [hf, edgeByState, hst]⟩))))
    | frameReady => exact absurd hst hr

/-! ### The dispatcher -/

/-- Everything the debounce can do with a recognized command (R154 to R157). -/
theorem debounce_cases (p : Config.Params) (c : Command) (m : Millis wMs) (s : State wUs wMs) :
    ((s.lastAccepted = 0 ∨ s.lastAccepted.toNat ≤ m.toNat ∧ tooSoon p s.lastAccepted m = false) ∧
      debounce p c m s = emit c m s) ∨
    (s.lastAccepted ≠ 0 ∧ m.toNat < s.lastAccepted.toNat ∧
      debounce p c m s = dropCommand .wallClockWrap m { s with lastAccepted := 0 }) ∨
    (s.lastAccepted ≠ 0 ∧ s.lastAccepted.toNat ≤ m.toNat ∧ tooSoon p s.lastAccepted m = true ∧
      debounce p c m s = dropCommand .interval m s) := by
  unfold debounce
  by_cases h0 : s.lastAccepted = 0
  · exact .inl ⟨.inl h0, if_neg (not_not.2 h0)⟩
  rw [if_pos h0]
  by_cases hw : m.toNat < s.lastAccepted.toNat
  · exact .inr (.inl ⟨h0, hw, if_pos ((wrapped_eq_true _ _).2 hw)⟩)
  have hle : s.lastAccepted.toNat ≤ m.toNat := by omega
  rw [if_neg (by simpa using hle)]
  cases ht : tooSoon p s.lastAccepted m with
  | true => exact .inr (.inr ⟨h0, hle, rfl, if_pos rfl⟩)
  | false => exact .inl ⟨.inr ⟨hle, rfl⟩, if_neg Bool.false_ne_true⟩

theorem dispatcherPoll_notReady {p : Config.Params} {m : Millis wMs} {s : State wUs wMs} (h : s.state ≠ .frameReady) :
    dispatcherPoll p m s = s := by
  simp [dispatcherPoll, frameReady, h]

theorem dispatcherPoll_ready {p : Config.Params} {m : Millis wMs} {s : State wUs wMs} (h : s.state = .frameReady) :
    dispatcherPoll p m s = dispatch p (mapCode p s.codeByte) m (resetCore s) := by
  simp [dispatcherPoll, frameReady, h]

theorem dispatchCode_notReady {p : Config.Params} {c : Command} {s : State wUs wMs} (h : s.state ≠ .frameReady) :
    dispatchCode p c s = s := by
  simp [dispatchCode, frameReady, h]

theorem dispatchCode_ready {p : Config.Params} {c : Command} {s : State wUs wMs} (h : s.state = .frameReady) :
    dispatchCode p c s = debounce p c s.ports.msNow (resetCore s) := by
  simp [dispatchCode, frameReady, h]

/-- What dispatching leaves alone, whatever it does with the command. -/
theorem dispatch_frame (p : Config.Params) (c : Option Command) (m : Millis wMs) (s : State wUs wMs) :
    (dispatch p c m s).state = s.state ∧ (dispatch p c m s).codeByte = s.codeByte ∧
      (dispatch p c m s).pulseIndex = s.pulseIndex ∧ (dispatch p c m s).lastEdge = s.lastEdge ∧
      (dispatch p c m s).statusQ = s.statusQ ∧ (dispatch p c m s).ports = s.ports ∧
      (dispatch p c m s).inputs = s.inputs ∧ (dispatch p c m s).freeIndex = s.freeIndex := by
  cases c with
  | none => simp [dispatch, dropCommand]
  | some c =>
    rcases debounce_cases p c m s with ⟨-, h⟩ | ⟨-, -, h⟩ | ⟨-, -, -, h⟩ <;> simp [dispatch, h, dropCommand]

/-! ### Legal states -/

/-- The legality of a state depends on the decoder registers alone. -/
theorem legal_congr (p : Config.Params) {s t : State wUs wMs} (h1 : t.state = s.state) (h2 : t.codeByte = s.codeByte)
    (h3 : t.pulseIndex = s.pulseIndex) (h4 : t.lastEdge = s.lastEdge) : legal p t = legal p s := by
  simp [legal, h1, h2, h3, h4]

theorem legal_resetCore (p : Config.Params) (s : State wUs wMs) : legal p (resetCore s) = true := by
  simp [legal]

@[simp] theorem legal_noCommand (p : Config.Params) (s : State wUs wMs) : legal p (noCommand s) = legal p s := rfl

@[simp] theorem legal_afterFetch (p : Config.Params) (s : State wUs wMs) : legal p (afterFetch s) = legal p s := rfl

end Sys2Proof.Machine
end

