-- ==== Sys2Proof/Laws/PerInstr.lean ====
section
/-! SUPPORT. The family `OpcodeRow`: for each instruction, its word has the format of its row of the opcode table and the row's fixed
bits (`word & mask = match`), and it takes no word of another row. -/

namespace Sys2Proof.Laws.OpcodeRow

/-- The row of spec/opcode_table.json an instruction stands for: whether the format is OPW, the mask, the match. -/
def row : Instr → Bool × Nat × Nat
  | .idle => (true, 0x3, 0x0)
  | .edge _ => (true, 0x3, 0x1)
  | .poll _ => (true, 0x3, 0x2)
  | .reset => (true, 0x3, 0x3)
  | .codeVolUp => (false, 0xFF, 0xE0)
  | .codeVolDown => (false, 0xFF, 0xD0)
  | .codeMute => (false, 0xFF, 0xF0)

/-- The format and the number of a word. -/
def number : EncodedWord → Bool × Nat
  | .opw w => (true, w.toNat)
  | .cmd8 c => (false, c.toNat)

/-- The word of a well-formed instruction lies in its row. -/
def Statement (i : Instr) : Prop :=
  i.wellFormed = true → (number (encode i)).1 = (row i).1 ∧ (number (encode i)).2 &&& (row i).2.1 = (row i).2.2

theorem opWord_toNat (a : ArgField) (op : BitVec 2) : (opWord a op).toNat &&& 3 = op.toNat := by
  have h := op.isLt
  simp only [opWord, BitVec.toNat_append, Nat.and_two_pow_sub_one_eq_mod _ 2, Nat.shiftLeft_eq]
  rw [← Nat.shiftLeft_eq, ← Nat.shiftLeft_add_eq_or_of_lt h, Nat.shiftLeft_eq]
  omega

theorem idle : Statement .idle := fun _ => ⟨rfl, by decide⟩
theorem edge (now : Micros) : Statement (.edge now) := fun _ => ⟨rfl, opWord_toNat _ _⟩
theorem poll (nowMs : Millis) : Statement (.poll nowMs) := fun _ => ⟨rfl, opWord_toNat _ _⟩
theorem reset : Statement .reset := fun _ => ⟨rfl, by decide⟩
theorem codeVolUp : Statement .codeVolUp := fun _ => ⟨rfl, by decide⟩
theorem codeVolDown : Statement .codeVolDown := fun _ => ⟨rfl, by decide⟩
theorem codeMute : Statement .codeMute := fun _ => ⟨rfl, by decide⟩

end Sys2Proof.Laws.OpcodeRow
end

