-- ==== Sys2Proof/Laws/Run.lean ====
section
/-! SUPPORT. Sequences of operations, the bits that edges carry, and the arithmetic of the accumulator. -/

namespace Sys2Proof.Machine

variable {wUs wMs : Nat}

/-! ### Operations one after another -/

variable {run : Instr wUs wMs → State wUs wMs → Result wUs wMs}

/-- One operation as a sequence is the operation. -/
theorem runOps_singleton (i : Instr wUs wMs) (s : State wUs wMs) : runOps run [i] s = run i s := by
  simp only [runOps]
  cases run i s with
  | next t => cases t.cmd <;> simp
  | fault r => rfl
  | refused r => rfl

/-- A first operation that emits nothing leaves the rest's result as it is. -/
theorem runOps_cons_of_silent {i : Instr wUs wMs} {rest : List (Instr wUs wMs)} {s t u : State wUs wMs}
    (h : run i s = .next t) (hr : runOps run rest t = .next u) (hc : t.cmd = none) :
    runOps run (i :: rest) s = .next u := by
  simp only [runOps, h, hr, hc]
  cases hu : u.cmd <;> simp [← hu]

/-- A sequence runs where its first operation and the rest run. -/
theorem runOps_cons_next {i : Instr wUs wMs} {rest : List (Instr wUs wMs)} {s t u : State wUs wMs}
    (h : run i s = .next t) (hr : runOps run rest t = .next u) :
    runOps run (i :: rest) s = .next { u with cmd := u.cmd.or t.cmd } := by
  simp only [runOps, h, hr]

/-! ### Bits -/

theorem bit_toNat_lt (b : Bit) : b.toNat < 2 := b.isLt

theorem carries_cons {last t : Micros wUs} {ts : List (Micros wUs)} {b : Bit} {bs : List Bit} :
    carries last (t :: ts) (b :: bs) = true ↔
      last.toNat ≤ t.toNat ∧ classBit Config.params (t - last) = some b ∧ carries t ts bs = true := by
  simp [carries, and_assoc]

/-- As many edges as bits. -/
theorem length_eq_of_carries {edges : List (Micros wUs)} :
    ∀ {last : Micros wUs} {bits : List Bit}, carries last edges bits = true → edges.length = bits.length := by
  induction edges with
  | nil => intro last bits h; cases bits <;> simp [carries] at h ⊢
  | cons t ts ih =>
    intro last bits h
    cases bits with
    | nil => simp [carries] at h
    | cons b bs => simp [ih (carries_cons.1 h).2.2]

/-- Appending a bit doubles the value and adds the bit. -/
theorem bitsValue_append (bits : List Bit) (b : Bit) : bitsValue (bits ++ [b]) = 2 * bitsValue bits + b.toNat := by
  induction bits with
  | nil => simp [bitsValue]
  | cons x xs ih => simp only [List.cons_append, bitsValue, ih, List.length_append, List.length_singleton, pow_succ]; ring

theorem bitsValue_lt (bits : List Bit) : bitsValue bits < 2 ^ bits.length := by
  induction bits with
  | nil => simp [bitsValue]
  | cons x xs ih =>
    have hx : x.toNat * 2 ^ xs.length ≤ 1 * 2 ^ xs.length := Nat.mul_le_mul_right _ (by have := bit_toNat_lt x; omega)
    simp only [bitsValue, List.length_cons, pow_succ]
    omega

/-! ### The accumulator -/

/-- OR-ing a bit into an even accumulator adds it. -/
theorem codeByte_or_bit {c : CodeByte} (b : Bit) (h : c.toNat % 2 = 0) :
    (c ||| b.setWidth 8).toNat = c.toNat + b.toNat := by
  have hb := bit_toNat_lt b
  obtain ⟨k, hk⟩ : ∃ k, c.toNat = 2 ^ 1 * k := ⟨c.toNat / 2, by omega⟩
  rw [BitVec.toNat_or, show (b.setWidth 8).toNat = b.toNat by rw [BitVec.toNat_setWidth]; omega, hk,
    ← Nat.two_pow_add_eq_or_of_lt (by omega)]

/-- The shift loses nothing while bit 7 is 0 (R120). -/
theorem codeByte_shift {c : CodeByte} (h : c.toNat < 128) : (c <<< 1).toNat = 2 * c.toNat := by
  rw [BitVec.toNat_shiftLeft, Nat.shiftLeft_eq]
  show _ % 256 = _
  omega

/-- The increment of `pulse_index` does not wrap inside a frame (R121, R123). -/
theorem pulseIndex_succ {i : PulseIndex} (h : i.toNat < 32) : (i + 1).toNat = i.toNat + 1 := by
  rw [BitVec.toNat_add]
  show (i.toNat + 1) % 64 = _
  omega

/-- What legality says while bits are received (R33). -/
theorem legal_receiving {s : State wUs wMs} (hs : s.state = .receiving) :
    Legal s ↔ s.pulseIndex.toNat < 32 ∧ codeByteLegal (min (s.pulseIndex.toNat - 16) 8) s.codeByte = true := by
  simp only [Legal, legal, hs, Bool.and_eq_true, decide_eq_true_eq]
  rfl

end Sys2Proof.Machine
end

