-- ==== Sys2Proof/Tests/Slice0.lean ====
section
/-! SUPPORT. Tests of the model, each expected result from the spec's own tables (95_test_vectors.md, cited by row), and a witness for
the hypotheses of each statement. -/

namespace Sys2Proof.Tests

open Sys2Proof.Machine

/-- A state with these registers, everything else as after reset. -/
def at_ (st : ReceiverState) (code : CodeByte) (index : PulseIndex) (lastEdge : Micros) (lastAccepted : Millis) : State :=
  { State.reset with state := st, codeByte := code, pulseIndex := index, lastEdge := lastEdge, lastAccepted := lastAccepted }

/-! ### The checks refuse ill-formed terms -/

theorem test_wellFormed_edge_literal : (AsmStmt.edge (2 ^ 32)).wellFormed = false := by decide
/-- A block with 16-bit clocks: the literal that fits 32 bits does not fit. -/
theorem test_wellFormed_narrow : (AsmStmt.edge 65536).wellFormed 16 16 = false := by decide
theorem test_wellFormed_poll_literal : (AsmStmt.poll (2 ^ 32)).wellFormed = false := by decide
theorem test_wellFormed_frame_start : (AsmStmt.frame (2 ^ 32) 0 1200 2000 9000).wellFormed = false := by decide
theorem test_wellFormed_frame_bits : (AsmStmt.frame 0 (2 ^ 32) 1200 2000 9000).wellFormed = false := by decide
theorem test_wellFormed_frame_s0 : (AsmStmt.frame 0 0 (2 ^ 32) 2000 9000).wellFormed = false := by decide
theorem test_wellFormed_frame_s1 : (AsmStmt.frame 0 0 1200 (2 ^ 32) 9000).wellFormed = false := by decide
theorem test_wellFormed_frame_ss : (AsmStmt.frame 0 0 1200 2000 (2 ^ 32)).wellFormed = false := by decide
theorem test_program_needs_launch : programWellFormed [.edge 1000] = false := by decide
theorem test_program_checks_statements : programWellFormed [.por, .edge (2 ^ 32)] = false := by decide
theorem test_params_wellFormed : Config.params.wellFormed = true := by decide
theorem test_params_window_off_tolerance : Config.Params.wellFormed { Config.params with b1Lo := 1500 } = false := by decide
theorem test_params_bit1_top : Config.Params.wellFormed { Config.params with b1Hi := 2500 } = false := by decide
theorem test_params_bit0_bottom : Config.Params.wellFormed { Config.params with b0Lo := 1000 } = false := by decide
theorem test_params_bit0_top : Config.Params.wellFormed { Config.params with b0Hi := 1500 } = false := by decide
theorem test_params_empty_start : Config.Params.wellFormed { Config.params with startHi := 7000 } = false := by decide
/-- `START_HI <= T_STALE` is the model's choice, log entry 21. -/
theorem test_params_start_after_stale : Config.Params.wellFormed { Config.params with tStale := 10000 } = false := by decide
theorem test_params_code_too_wide : Config.Params.wellFormed { Config.params with codeLast := 24 } = false := by decide
theorem test_params_code_outside : Config.Params.wellFormed { Config.params with frameLen := 23 } = false := by decide
theorem test_params_frame_too_long : Config.Params.wellFormed { Config.params with frameLen := 64 } = false := by decide
theorem test_params_codes_clash : Config.Params.wellFormed { Config.params with codeMute := 0xE0 } = false := by decide
theorem test_params_codes_clash_down : Config.Params.wellFormed { Config.params with codeVolDown := 0xE0 } = false := by decide
theorem test_params_codes_clash_mute : Config.Params.wellFormed { Config.params with codeMute := 0xD0 } = false := by decide

/-! ### Decoding words written out from the encodings (R80, R81, R88) -/

/-- `op = 00`; `arg` is ignored (R82): here it is all ones. -/
theorem test_decode_idle : decode (.opw 0b1111111111111111111111111111111100#34) = .ok .idle := rfl
/-- `EDGE 9000` is `0x8CA1` (95_test_vectors.md, W1): 9000 = 10001100101000 in binary. -/
theorem test_decode_edge : decode (.opw 0b0000000000000000001000110010100001#34) = .ok (.edge 9000) := rfl
/-- `POLL 4294967040` is `0x3FFFFFC02` (P5): the top operand bit counts. -/
theorem test_decode_poll : decode (.opw 0b1111111111111111111111110000000010#34) = .ok (.poll 4294967040) := rfl
/-- `op = 11`, `arg` not canonical. -/
theorem test_decode_reset : decode (.opw 0b1000000000000000000000000000000011#34) = .ok .reset := rfl
theorem test_decode_codeVolUp : decode (.cmd8 0b11100000#8) = .ok .codeVolUp := rfl
theorem test_decode_codeVolDown : decode (.cmd8 0b11010000#8) = .ok .codeVolDown := rfl
theorem test_decode_codeMute : decode (.cmd8 0b11110000#8) = .ok .codeMute := rfl
/-- 0xE0 bit-reversed is not recognized (VP9). -/
theorem test_decode_rejects : decode (.cmd8 0x07#8) = .error (.unrecognizedCode 0x07) := rfl
theorem test_table_word_too_wide : decodeTableWord 40 (2 ^ 34) = none := rfl
/-- The two formats by their length: 0xE0 as one byte is a code, as an operation word it is IDLE. -/
theorem test_table_word_formats : decodeTableWord 8 0xE0 = some .codeVolUp ∧ decodeTableWord 40 0xE0 = some .idle := ⟨rfl, rfl⟩

/-- `W_US` 4, `W_MS` 8: `arg` has 8 bits, EDGE ignores the upper four (R82). -/
theorem test_decode_narrow_edge : decodeOp (wUs := 4) (wMs := 8) 0b1111010101#10 = .edge 5 := by rfl
theorem test_decode_narrow_poll : decodeOp (wUs := 4) (wMs := 8) 0b1111010110#10 = .poll 0xF5 := by rfl

/-! ### One step of each instruction -/

/-- VE33: the last shifted bit. -/
theorem test_edge_VE33 : nextState (exec (.edge 102000) (at_ .receiving 0x7E 22 100000 777)) =
    some (at_ .receiving 0xFE 23 102000 777) := by decide
/-- VE12: one µs past the stale limit. -/
theorem test_edge_VE12 : nextState (exec (.edge 140001) (at_ .awaitStart 0 0 100000 777)) =
    some { at_ .awaitStart 0 0 140001 777 with trace := [.abort .staleGap 140001] } := by decide
/-- VP12: a gap of exactly 200 ms is accepted. -/
theorem test_poll_VP12 : nextState (exec (.poll 1200) (at_ .frameReady 0xE0 32 49800 1000)) =
    some { at_ .awaitFirst 0 0 0 1200 with cmd := some .volUp } := by decide
/-- VP14: the ms counter wrapped. -/
theorem test_poll_VP14 : nextState (exec (.poll 50) (at_ .frameReady 0xE0 32 49800 4294967040)) =
    some { at_ .awaitFirst 0 0 0 0 with trace := [.drop .wallClockWrap 50] } := by decide
/-- VR3. -/
theorem test_reset_VR3 : nextState (exec .reset (at_ .receiving 0x1C 20 40000 100)) = some (at_ .awaitFirst 0 0 0 100) := by
  decide
/-- VR6. -/
theorem test_idle_VR6 : nextState (exec .idle (at_ .receiving 0x1C 20 40000 100)) =
    some (at_ .receiving 0x1C 20 40000 100) := by decide

/-- W2: the word placed and stepped emits its command, `cmd_id` 0b01. -/
theorem test_codeVolUp_W2 : (nextState (step (State.reset.withFetchWord 8 0xE0))).map (fun t => (cmdValid t, t.state)) =
    some (true, .awaitFirst) := by decide
theorem test_codeVolUp_id : (nextState (exec .codeVolUp (at_ .frameReady 0xE0 32 49800 0))).map cmdIdPort = some 0b01#2 := rfl
theorem test_codeVolDown_id : (nextState (exec .codeVolDown (at_ .frameReady 0xD0 32 49800 0))).map cmdIdPort = some 0b10#2 :=
  rfl
theorem test_codeMute_id : (nextState (exec .codeMute (at_ .frameReady 0xF0 32 49800 0))).map cmdIdPort = some 0b11#2 := rfl

/-- R36: an index that cannot occur is refused. -/
theorem test_unreachable_refused : exec .idle (at_ .receiving 0 33 0 0) = .refused .unreachableState := rfl

/-- VO2: power-on reset overrides an edge. -/
theorem test_por_VO2 :
    (nextState (step
      { at_ .receiving 0x1C 20 40000 777 with
        inputs := [.ports { quietPorts with por := true, edgeValid := true, edgeTs := 41200 }] })).map
      (fun t => (t.state, t.codeByte, t.pulseIndex, t.lastEdge, t.lastAccepted)) = some (.awaitFirst, 0, 0, 0, 0) := by
  decide

/-- The start of V-ORDER: an edge and a poll in one step. -/
def edgeAndPoll : State :=
  { at_ .frameReady 0xE0 32 49800 0 with
    inputs := [.ports { quietPorts with pollValid := true, msNow := 100, edgeValid := true, edgeTs := 150000 }] }

/-- V-ORDER, POLL then EDGE: the edge is recorded, and the step still shows the command (R42). -/
theorem test_order_poll_first : (nextState (stepInOrder exec .pollEdgeReset edgeAndPoll)).map
    (fun t => (t.state, t.lastEdge, t.lastAccepted, t.cmd)) = some (.awaitStart, 150000, 100, some .volUp) := by decide
/-- V-ORDER, EDGE then POLL. -/
theorem test_order_edge_first : (nextState (stepInOrder exec .edgePollReset edgeAndPoll)).map
    (fun t => (t.state, t.lastEdge, t.lastAccepted, t.cmd)) = some (.awaitFirst, 0, 100, some .volUp) := by decide

/-- The first words of P2. -/
theorem test_assemble_P2 : (assemble [.por, .edge 1000, .edge 1500, .poll 80] : List Input) =
    [.ports powerOnPorts, .word 0xFA1, .word 0x1771, .word 0x142] := by decide
/-- W1: the last edge of `FRAME 0, 0x0000E000` is `0x30A21`. -/
theorem test_assemble_frame : (assemble [.frame 0 0x0000E000 1200 2000 9000] : List Input).getLast? =
    some (.word 0x30A21) := by decide
/-- R91: a label, a hexadecimal number, a comment. -/
theorem test_parse_line : parseLine ['a', ':', ' ', 'P', 'O', 'L', 'L', ' ', '0', 'x', '3', 'C', ' ', ';', 'x'] =
    .ok (some (.poll 60)) := by rfl
/-- W8, fifth row: `FRAME 0, 0x00005A00, s1 = 1500, s0 = 1000, ss = 7001`. -/
theorem test_parse_frame_named : parseLine "FRAME 0, 0x00005A00, s1 = 1500, s0 = 1000, ss = 7001".toList =
    .ok (some (.frame 0 0x5A00 1000 1500 7001)) := by rfl
/-- Named without blanks, the others at their defaults; a name that is none of the three; a name given twice. -/
theorem test_parse_frame_defaults : parseLine "FRAME 5, 7, ss=8000".toList = .ok (some (.frame 5 7 1200 2000 8000)) := by rfl
theorem test_parse_frame_bad_name : parseLine "FRAME 0, 0, s2 = 1".toList = .error (.badOperand ['s', '2']) := by rfl
theorem test_parse_frame_twice : parseLine "FRAME 0, 0, 1000, s0 = 1".toList = .error (.badOperand ['s', '0']) := by rfl
theorem test_parse_rejects : parseLine ['J', 'M', 'P'] = .error (.unknownMnemonic ['J', 'M', 'P']) := by rfl

/-! ### Witnesses: concrete states and operands that meet the hypotheses of the statements -/

/-- A decoder in each phase, with a baseline of 1000 ms. -/
def first : State := at_ .awaitFirst 0 0 0 1000
def start : State := at_ .awaitStart 0 0 100000 1000
def bits20 : State := at_ .receiving 0x1C 20 100000 1000
def begun : State := at_ .receiving 0 0 9000 1000
def ready : State := at_ .frameReady 0xE0 32 49800 1000
def readyFresh : State := at_ .frameReady 0xE0 32 49800 0

theorem witness_legal_phases : Legal first ∧ Legal start ∧ Legal bits20 ∧ Legal begun ∧ Legal ready ∧ Legal readyFresh := by
  decide

theorem witness_PowerOnResetOverrides :
    edgeAndPoll.inputs = .ports { quietPorts with pollValid := true, msNow := 100, edgeValid := true, edgeTs := 150000 } :: [] ∧
    ({ quietPorts with por := true, resetReq := true } : Ports).por = true := by decide
theorem witness_BaselineSurvivesReset :
    Legal readyFresh ∧ readyFresh.state = .frameReady ∧ readyFresh.lastAccepted = 0 ∧
      mapCode Config.params readyFresh.codeByte = some .volUp ∧ Legal (at_ .frameReady 0x12 32 49800 1000) ∧
      mapCode Config.params (at_ .frameReady 0x12 32 49800 1000).codeByte = none := by decide
theorem witness_IdleWritesNoRegister : Legal bits20 := by decide
theorem witness_ResetClearsDecoder : Legal ready := by decide
theorem witness_ResetTwiceIsResetOnce : Legal start := by decide
theorem witness_EdgeIgnoredWhenFrameReady : Legal ready ∧ ready.state = .frameReady := by decide
theorem witness_EdgeWraparoundResets :
    Legal bits20 ∧ bits20.state ≠ .frameReady ∧ (99999 : Micros).toNat < bits20.lastEdge.toNat := by decide
theorem witness_EdgeStaleGapRestarts :
    Legal bits20 ∧ bits20.state ≠ .frameReady ∧ bits20.lastEdge.toNat ≤ (140001 : Micros).toNat ∧
      40000 < (140001 : Micros).toNat - bits20.lastEdge.toNat ∧
      (140000 : Micros).toNat - bits20.lastEdge.toNat = 40000 ∧ bits20.state ≠ .awaitFirst := by decide
/-- The same of a block with clocks of 20 and 24 bits. -/
def narrow (st : ReceiverState) (code : CodeByte) (index : PulseIndex) (lastEdge : Micros 20) (lastAccepted : Millis 24) :
    State 20 24 where
  state := st
  codeByte := code
  pulseIndex := index
  lastEdge := lastEdge
  lastAccepted := lastAccepted
  statusQ := .inactive
  cmd := none
  ports := quietPorts 20 24
  inputs := []
  trace := []
  freeIndex := 0
theorem witness_EdgeWraparoundResets_narrow :
    Legal (narrow .receiving 0x1C 20 1000000 0) ∧
      (704 : Micros 20).toNat < (narrow .receiving 0x1C 20 1000000 0).lastEdge.toNat := by decide
theorem witness_PollWallClockWrap_narrow :
    Legal (narrow .frameReady 0xE0 32 1000000 16000000) ∧
      mapCode Config.params (narrow .frameReady 0xE0 32 1000000 16000000).codeByte = some .volUp ∧
      (50 : Millis 24).toNat < (narrow .frameReady 0xE0 32 1000000 16000000).lastAccepted.toNat := by decide
theorem witness_StepKeepsInvariant_narrow : SoundState (narrow .receiving 0x1C 20 1000000 0) := by decide
theorem witness_FirstEdgeRecorded : Legal first ∧ first.state = .awaitFirst := by decide
theorem witness_StartMarkerWindow :
    Legal start ∧ start.state = .awaitStart ∧ start.lastEdge.toNat ≤ (107001 : Micros).toNat ∧
      (7000 < (107001 : Micros).toNat - start.lastEdge.toNat ∧ (107001 : Micros).toNat - start.lastEdge.toNat < 11000) ∧
      (107000 : Micros).toNat - start.lastEdge.toNat ≤ 7000 ∧ 11000 ≤ (111000 : Micros).toNat - start.lastEdge.toNat ∧
      (111000 : Micros).toNat - start.lastEdge.toNat ≤ 40000 := by decide
theorem witness_MalformedIntervalAborts :
    Legal bits20 ∧ bits20.state = .receiving ∧ bits20.lastEdge.toNat ≤ (100980 : Micros).toNat ∧
      (100980 : Micros).toNat - bits20.lastEdge.toNat ≤ 980 ∧ 2520 ≤ (102520 : Micros).toNat - bits20.lastEdge.toNat ∧
      (102520 : Micros).toNat - bits20.lastEdge.toNat ≤ 40000 := by decide
theorem witness_DataBitReceived :
    Legal bits20 ∧ bits20.state = .receiving ∧ bits20.lastEdge.toNat ≤ (101481 : Micros).toNat ∧
      classBit Config.params ((101481 : Micros) - bits20.lastEdge) = some 1 ∧
      classBit Config.params ((101480 : Micros) - bits20.lastEdge) = some 0 := by decide
/-- The 32nd interval of a frame; a reset of a completed frame. -/
theorem witness_FrameCompletesAtThirtyTwo :
    (Legal (at_ .receiving 0xE0 31 100000 0) ∧ (at_ .receiving 0xE0 31 100000 0).lastEdge.toNat ≤ (101200 : Micros).toNat ∧
      classBit Config.params ((101200 : Micros) - (at_ .receiving 0xE0 31 100000 0).lastEdge) = some 0) ∧
    ready.state = .frameReady ∧ exec .reset ready = .next (at_ .awaitFirst 0 0 0 1000) :=
  ⟨by decide, rfl, rfl⟩
/-- Eight edges that carry 11100000 from pulse index 16; an index below 23; an index outside the code field. -/
theorem witness_AccumulatorLosesNoBit :
    (Legal bits20 ∧ bits20.state = .receiving ∧ bits20.pulseIndex.toNat < 23) ∧
    (Legal (at_ .receiving 0 16 100000 0) ∧ (at_ .receiving 0 16 100000 0).pulseIndex = 16 ∧
      ([1, 1, 1, 0, 0, 0, 0, 0] : List Bit).length = 8 ∧
      carries (at_ .receiving 0 16 100000 0).lastEdge
        [102000, 104000, 106000, 107200, 108400, 109600, 110800, 112000] [1, 1, 1, 0, 0, 0, 0, 0] = true) ∧
    (Legal (at_ .receiving 0xFF 24 100000 0) ∧ 23 < (at_ .receiving 0xFF 24 100000 0).pulseIndex.toNat ∧
      classBit Config.params ((101200 : Micros) - (at_ .receiving 0xFF 24 100000 0).lastEdge) = some 0) := by decide
theorem witness_IntervalSymbolDecidesEdge :
    Legal start ∧ Legal bits20 ∧
      intervalSymbol Config.params start.state ((140001 : Micros) - start.lastEdge) = some .stale ∧
      intervalSymbol Config.params start.state ((110999 : Micros) - start.lastEdge) = some .startMarker ∧
      intervalSymbol Config.params start.state ((111000 : Micros) - start.lastEdge) = some .malformed ∧
      intervalSymbol Config.params bits20.state ((100981 : Micros) - bits20.lastEdge) = some .bit0 ∧
      intervalSymbol Config.params bits20.state ((102519 : Micros) - bits20.lastEdge) = some .bit1 ∧
      intervalSymbol Config.params bits20.state ((102520 : Micros) - bits20.lastEdge) = some .malformed ∧
      intervalSymbol Config.params bits20.state ((140001 : Micros) - bits20.lastEdge) = some .stale := by decide
theorem witness_WindowBoundaryValues :
    Legal start ∧ Legal bits20 ∧
      (∀ d ∈ [7000, 7001, 10999, 11000, 40000, 40001],
        start.lastEdge.toNat + d = (BitVec.ofNat 32 (100000 + d) : Micros).toNat) ∧
      (∀ d ∈ [980, 981, 1480, 1481, 1519, 1520, 2519, 2520, 40000, 40001],
        bits20.lastEdge.toNat + d = (BitVec.ofNat 32 (100000 + d) : Micros).toNat) := by decide
theorem witness_SameTimestampTwice : Legal start ∧ Legal bits20 ∧ Legal first := by decide
theorem witness_EdgeAtTimeZero :
    Legal first ∧ first.state = .awaitFirst ∧ 7000 < (9000 : Micros).toNat ∧ (9000 : Micros).toNat < 11000 := by decide
theorem witness_PulseIndexNeverDecreases :
    exec .reset bits20 = .next (at_ .awaitFirst 0 0 0 1000) ∧
      (at_ .awaitFirst 0 0 0 1000).pulseIndex.toNat < bits20.pulseIndex.toNat := ⟨rfl, by decide⟩

/-- The 32 data edges of `FRAME 0, 0x0000E000` (W1). -/
def w1Edges : List Micros := bitEdges 1200 2000 9000 (frameBits 0x0000E000 32)
def w1Bits : List Bit := (frameBits 0x0000E000 32).map fun b => if b then 1 else 0

theorem witness_w1_carries : carries begun.lastEdge w1Edges w1Bits = true := by decide
theorem witness_FrameDeliversCode :
    Legal begun ∧ begun.state = .receiving ∧ begun.pulseIndex = 0 ∧ w1Bits.length = 32 ∧
      carries begun.lastEdge w1Edges w1Bits = true :=
  ⟨by decide, rfl, rfl, by decide, witness_w1_carries⟩
/-- Each clause of the partial frame at the ends of its range: 0 and 16 bits, 17 and 23, 24 and 31. -/
theorem witness_PartialFrameHoldsBits :
    ∀ n ∈ [0, 16, 17, 23, 24, 31], Legal begun ∧ (w1Bits.take n).length = n ∧
      carries begun.lastEdge (w1Edges.take n) (w1Bits.take n) = true := by decide
theorem witness_FrameIsThirtyFourEdges :
    Legal first ∧ first.state = .awaitFirst ∧ (0 : Micros).toNat ≤ (9000 : Micros).toNat ∧
      7000 < (9000 : Micros).toNat - (0 : Micros).toNat ∧ (9000 : Micros).toNat - (0 : Micros).toNat < 11000 ∧
      w1Bits.length = 32 ∧ carries 9000 w1Edges w1Bits = true :=
  ⟨by decide, rfl, by decide, by decide, by decide, by decide, witness_w1_carries⟩
theorem witness_FramePseudoInstruction :
    Legal first ∧ first.state = .awaitFirst ∧ 980 < (981 : Micros).toNat ∧ (981 : Micros).toNat ≤ 1480 ∧
      1480 < (2519 : Micros).toNat ∧ (2519 : Micros).toNat < 2520 ∧ 7000 < (10999 : Micros).toNat ∧
      (10999 : Micros).toNat < 11000 ∧ (300000 : Micros).toNat + (10999 : Micros).toNat + 32 * (2519 : Micros).toNat < 2 ^ 32 := by
  decide
theorem witness_CompleteFrameBlocksEdges :
    Legal ready ∧ ready.state = .frameReady ∧ (∀ i ∈ ([.edge 51000, .idle, .edge 10] : List Instr), i = .idle ∨ ∃ now, i = .edge now) ∧
      ([.edge 51000, .idle, .edge 10] : List Instr) ≠ [] := by
  refine ⟨by decide, rfl, ?_, by decide⟩
  simp
theorem witness_PartialFrameStaysParked :
    Legal bits20 ∧ (bits20.state = .awaitStart ∨ bits20.state = .receiving) ∧
      (∀ i ∈ ([.poll 900, .idle] : List Instr), i = .idle ∨ ∃ m, i = .poll m) ∧ ([.poll 900, .idle] : List Instr) ≠ [] ∧
      bits20.lastEdge.toNat + 40000 < (140001 : Micros).toNat := by
  refine ⟨by decide, by decide, ?_, by decide, by decide⟩
  simp
theorem witness_CommandCodeMap :
    Legal (at_ .frameReady 0x12 32 49800 0) ∧ mapCode Config.params (at_ .frameReady 0x12 32 49800 0).codeByte = none := by
  decide
theorem witness_CommandIdentifiers :
    ({ first with cmd := some .volUp } : State).cmd = some .volUp ∧
      ({ first with cmd := some .volDown } : State).cmd = some .volDown ∧
      ({ first with cmd := some .mute } : State).cmd = some .mute := by decide
theorem witness_PollNotReady : Legal bits20 ∧ bits20.state ≠ .frameReady := by decide
theorem witness_PollFreesChannel : Legal ready ∧ ready.state = .frameReady := by decide
theorem witness_PollUnrecognizedCode :
    Legal (at_ .frameReady 0x12 32 49800 4294967040) ∧ (0x12 : CodeByte) ≠ 0xE0#8 ∧ (0x12 : CodeByte) ≠ 0xD0#8 ∧
      (0x12 : CodeByte) ≠ 0xF0#8 := by decide
theorem witness_PollWithoutBaseline :
    Legal readyFresh ∧ readyFresh.state = .frameReady ∧ mapCode Config.params readyFresh.codeByte = some .volUp ∧
      readyFresh.lastAccepted = 0 := by decide
theorem witness_PollWallClockWrap :
    Legal ready ∧ mapCode Config.params ready.codeByte = some .volUp ∧ (999 : Millis).toNat < ready.lastAccepted.toNat := by
  decide
theorem witness_PollDebounceInterval :
    Legal ready ∧ ready.lastAccepted ≠ 0 ∧ ready.lastAccepted.toNat ≤ (1199 : Millis).toNat ∧
      (1199 : Millis).toNat - ready.lastAccepted.toNat < 200 ∧ (1200 : Millis).toNat - ready.lastAccepted.toNat = 200 := by
  decide
theorem witness_PollEmits :
    Legal ready ∧ mapCode Config.params ready.codeByte = some .volUp ∧
      ready.lastAccepted.toNat + 200 ≤ (1200 : Millis).toNat ∧ Legal readyFresh ∧ readyFresh.lastAccepted = 0 := by decide
theorem witness_EmitAtTimeZero :
    Legal readyFresh ∧ readyFresh.state = .frameReady ∧ mapCode Config.params readyFresh.codeByte = some .volUp ∧
      readyFresh.lastAccepted = 0 := by decide
theorem witness_FrameConsumedOnce :
    Legal bits20 ∧ bits20.state ≠ .frameReady ∧ Legal ready ∧ ready.state = .frameReady := by decide
/-- The port `ms_now` at 1200, 999 and 1199 beside a baseline of 1000, and no frame at all. -/
theorem witness_CodeWordsDispatch :
    ((.codeMute : Instr), Command.mute) ∈ [(Instr.codeVolUp, Command.volUp), (.codeVolDown, .volDown), (.codeMute, .mute)] ∧
      Legal bits20 ∧ bits20.state ≠ .frameReady ∧ Legal ready ∧ ready.state = .frameReady ∧
      ready.lastAccepted.toNat + 200 ≤ ({ quietPorts with msNow := 1200 } : Ports).msNow.toNat ∧
      ({ quietPorts with msNow := 999 } : Ports).msNow.toNat < ready.lastAccepted.toNat ∧
      ready.lastAccepted.toNat ≤ ({ quietPorts with msNow := 1199 } : Ports).msNow.toNat ∧
      ({ quietPorts with msNow := 1199 } : Ports).msNow.toNat < ready.lastAccepted.toNat + 200 := by decide
theorem witness_PollExecutesCodeWord :
    Legal ready ∧ ready.state = .frameReady ∧ ready.ports.msNow = 0 ∧ decode (.cmd8 ready.codeByte) = .ok .codeVolUp ∧
      decode (.cmd8 0x12) = .error (.unrecognizedCode 0x12) := ⟨by decide, rfl, rfl, rfl, rfl⟩

/-- Operations that run without a command and without an event. -/
def quietRun : List Instr → State → Option State
  | [], s => some s
  | i :: rest, s =>
    match exec i s with
    | .next t => if t.cmd = none ∧ t.trace = s.trace then quietRun rest t else none
    | _ => none

theorem quietRun_sound : ∀ {ops : List Instr} {s u : State}, quietRun ops s = some u → QuietRun s u := by
  intro ops
  induction ops with
  | nil => intro s u h; cases h; exact .done _
  | cons i rest ih =>
    intro s u h
    unfold quietRun at h
    cases hx : exec i s with
    | next t =>
      rw [hx] at h
      by_cases hc : t.cmd = none ∧ t.trace = s.trace
      · simp only [hc, and_self, if_true] at h
        exact .op i s t u hx hc.1 (fun m hm => by rw [hc.2] at hm; simpa using congrArg List.length hm) (ih h)
      · simp only [hc, if_false] at h; cases h
    | fault r => rw [hx] at h; cases h
    | refused r => rw [hx] at h; cases h

/-- A command at 1000 ms, a whole frame, and a command at 1200 ms (W6, sequence a). -/
theorem witness_CommandSpacing :
    exec (.poll 1000) readyFresh = .next { at_ .awaitFirst 0 0 0 1000 with cmd := some .volUp } ∧
      QuietRun { at_ .awaitFirst 0 0 0 1000 with cmd := some .volUp } ready ∧
      exec (.poll 1200) ready = .next { at_ .awaitFirst 0 0 0 1200 with cmd := some .volUp } ∧ (1000 : Millis) ≠ 0 := by
  refine ⟨rfl, ?_, rfl, by decide⟩
  exact quietRun_sound (ops := (frameEdges 0 0x0000E000 1200 2000 9000).map .edge) (by decide)

theorem witness_UnreachableStatesRefused :
    ¬ Legal (at_ .receiving 0 33 0 0) ∧ 33 ≤ (at_ .receiving 0 33 0 0).pulseIndex.toNat ∧
      (at_ .awaitFirst 1 0 0 0).state = .awaitFirst ∧ (at_ .awaitFirst 1 0 0 0).codeByte ≠ 0 := by decide
theorem witness_EveryOperationGoesOn :
    Legal start ∧ (nextState (exec (.edge 107000) start)).map Sized.State.trace =
      some (Event.abort .startMarker 107000 :: start.trace) := by decide
theorem witness_StepKeepsInvariant : SoundState edgeAndPoll ∧ SoundState bits20 := by decide
theorem witness_RegisterWriters : exec (.poll 5) readyFresh = .next { at_ .awaitFirst 0 0 0 5 with cmd := some .volUp } := rfl
theorem witness_InterruptContextBlindToBaseline :
    Context.interrupt.issues (.edge 102000 : Instr) = true ∧
      exec (.edge 101200) bits20 = .next (at_ .receiving 0x38 21 101200 1000) := ⟨rfl, rfl⟩
theorem witness_OneCausePerOperation :
    exec (.edge 107000) start =
      .next { at_ .awaitFirst 0 0 0 1000 with trace := [.abort .startMarker 107000] } := rfl
theorem witness_CommandOutputs :
    exec (.poll 5) readyFresh = .next { at_ .awaitFirst 0 0 0 5 with cmd := some .volUp } ∧
      cmdValid { at_ .awaitFirst 0 0 0 5 with cmd := some .volUp } = true ∧
      runOps exec [.edge 7] { at_ .awaitFirst 0 0 0 5 with cmd := some .volUp } = .next (at_ .awaitStart 0 0 7 5) ∧
      runOps exec [.poll 5, .edge 7] readyFresh = .next { at_ .awaitStart 0 0 7 5 with cmd := some .volUp } ∧
      cmdValid first = false := ⟨rfl, rfl, rfl, rfl, rfl⟩
theorem witness_StepRunsDecodedWord :
    ({ first with inputs := [.word 0x8CA1] } : State).inputs = .word 0x8CA1 :: [] ∧
      decode (.opw 0x8CA1) = .ok (.edge 9000) := ⟨rfl, rfl⟩
/-- Power-on reset; each strobe alone and none; an edge and a poll in one step. -/
theorem witness_StrobesBecomeOperations :
    ({ first with inputs := [.ports { quietPorts with por := true, edgeValid := true }] } : State).inputs =
      .ports { quietPorts with por := true, edgeValid := true } :: [] ∧
    (∀ p ∈ [{ quietPorts with edgeValid := true }, { quietPorts with pollValid := true }, { quietPorts with resetReq := true },
        quietPorts, { quietPorts with edgeValid := true, pollValid := true }],
      p.por = false ∧ ({ first with inputs := [.ports p] } : State).inputs = .ports p :: []) ∧
    (({ quietPorts with edgeValid := true, pollValid := true } : Ports).edgeValid = true) := by decide
theorem witness_SilentHostIdles : bits20.inputs = [] ∧ Legal bits20 := by decide
theorem witness_EdgeAndPollInOneStep :
    edgeAndPoll.inputs = .ports { quietPorts with pollValid := true, msNow := 100, edgeValid := true, edgeTs := 150000 } :: [] ∧
      quietPorts.por = false ∧ quietPorts.resetReq = false ∧ Legal edgeAndPoll ∧ edgeAndPoll.state = .frameReady := by decide
theorem witness_DecodeAfterEncode :
    (Instr.edge 4294967295 : Instr).wellFormed = true ∧ (Instr.poll 255 : Instr 4 8).wellFormed = true := ⟨rfl, rfl⟩
theorem witness_CodeWordsDecodeExactly :
    decode (.cmd8 0xD0) = .ok .codeVolDown ∧ (0xFF : CodeByte) ≠ 0xE0#8 ∧ (0xFF : CodeByte) ≠ 0xD0#8 ∧
      (0xFF : CodeByte) ≠ 0xF0#8 := ⟨rfl, by decide, by decide, by decide⟩
theorem witness_PlacedWordRunsNext :
    decodeTableWord 40 0x8CA1 = some (.edge 9000) ∧ decodeTableWord 8 0xF0 = some .codeMute := ⟨rfl, rfl⟩

end Sys2Proof.Tests
end

section
/-! PROOF. The decoder of code bytes (R10, R88): its table with the numbers, and what each of its answers says of the byte. -/

namespace Sys2Proof

variable {wUs wMs : Nat}

/-- The table of code bytes with its numbers (R10). -/
theorem decodeCode_params (c : CodeByte) :
    (decodeCode c : Except DecodeError (Instr wUs wMs)) =
      if c = 0xE0#8 then .ok .codeVolUp else if c = 0xD0#8 then .ok .codeVolDown
      else if c = 0xF0#8 then .ok .codeMute else .error (.unrecognizedCode c) := by
  rfl

theorem encode_of_decodeCode_eq_ok {c : CodeByte} {i : Instr wUs wMs} (h : decodeCode c = .ok i) :
    encode i = .cmd8 c := by
  rw [decodeCode_params] at h
  split_ifs at h with hUp hDown hMute
  · cases h; rw [hUp]; rfl
  · cases h; rw [hDown]; rfl
  · cases h; rw [hMute]; rfl

theorem decodeCode_eq_error {c : CodeByte} (hUp : c ≠ 0xE0#8) (hDown : c ≠ 0xD0#8) (hMute : c ≠ 0xF0#8) :
    (decodeCode c : Except DecodeError (Instr wUs wMs)) = .error (.unrecognizedCode c) := by
  rw [decodeCode_params, if_neg hUp, if_neg hDown, if_neg hMute]

/-- Settles O58: the three rows are the table itself, and every other byte takes its last branch. -/
theorem codeWordsDecodeExactly : Obligations.CodeWordsDecodeExactly :=
  ⟨rfl, rfl, rfl, fun _ => ⟨fun _ => encode_of_decodeCode_eq_ok, decodeCode_eq_error⟩⟩

end Sys2Proof
end

section
/-! PROOF. What an instruction can leave behind, as two inversions with a named case each: one for a falling edge (R110), one for
every instruction. -/

namespace Sys2Proof.Machine

variable {wUs wMs : Nat} {p : Config.Params} {now : Micros wUs} {i : Instr wUs wMs} {s t : State wUs wMs}

/-- What one falling edge at `now` can make of `s`. -/
inductive EdgeOutcome (p : Config.Params) (now : Micros wUs) (s : State wUs wMs) : State wUs wMs → Prop where
  /-- the gate (R111) -/
  | ignored (phase : s.state = .frameReady) : EdgeOutcome p now s s
  /-- the wraparound and the malformed intervals (R112, R116, R119) -/
  | aborted (c : AbortCause) : EdgeOutcome p now s (abortFrame c now s)
  /-- the stale gap without an event (R126) -/
  | restarted : EdgeOutcome p now s (recordFirst now (resetCore s))
  /-- the stale gap that ends an attempt (R114) -/
  | abandoned : EdgeOutcome p now s (recordFirst now (resetCore (traceEvent (.abort .staleGap now) s)))
  /-- the first edge (R115) -/
  | recorded (phase : s.state = .awaitFirst) : EdgeOutcome p now s (recordFirst now s)
  /-- the start marker (R116) -/
  | started (phase : s.state = .awaitStart) :
      EdgeOutcome p now s { s with pulseIndex := 0, lastEdge := now, state := .receiving }
  /-- a data bit (R120 to R123) -/
  | stored (phase : s.state = .receiving) (b : Bit) : EdgeOutcome p now s (storeBit p b now s)

theorem edgeOutcome_fallingEdge (p : Config.Params) (now : Micros wUs) (s : State wUs wMs) :
    EdgeOutcome p now s (fallingEdge p now s) := by
  rcases fallingEdge_cases p now s with
    ⟨hr, h⟩ | ⟨-, -, h⟩ | ⟨-, -, -, h⟩ | ⟨hf, -, h⟩ | ⟨ha, -, -, h⟩ | ⟨hv, -, -, h⟩ <;> rw [h]
  · exact .ignored hr
  · exact .aborted .wraparound
  · split
    · exact .restarted
    · exact .abandoned
  · exact .recorded hf
  · unfold confirmStart
    split
    · exact .started ha
    · exact .aborted .startMarker
  · unfold receiveBit
    split
    · exact .aborted .dataInterval
    · exact .stored hv _

/-- The instructions that run the dispatcher: POLL and the code bytes. -/
abbrev Dispatches (i : Instr wUs wMs) : Prop :=
  (∃ m, i = .poll m) ∨ i = .codeVolUp ∨ i = .codeVolDown ∨ i = .codeMute

/-- What an instruction can make of `s`. -/
inductive EffectOutcome (p : Config.Params) (s : State wUs wMs) : Instr wUs wMs → State wUs wMs → Prop where
  | idle : EffectOutcome p s .idle (noCommand s)
  | reset : EffectOutcome p s .reset (resetCore (noCommand s))
  | edge (now : Micros wUs) (t : State wUs wMs) (outcome : EdgeOutcome p now (noCommand s) t) :
      EffectOutcome p s (.edge now) t
  /-- no frame to dispatch (R151) -/
  | notReady (i : Instr wUs wMs) (kind : Dispatches i) (phase : s.state ≠ .frameReady) : EffectOutcome p s i (noCommand s)
  /-- the channel is freed and the code dispatched (R152) -/
  | dispatched (i : Instr wUs wMs) (kind : Dispatches i) (phase : s.state = .frameReady) (c : Option Command)
      (m : Millis wMs) : EffectOutcome p s i (dispatch p c m (resetCore (noCommand s)))

theorem effectOutcome_poll (p : Config.Params) (m : Millis wMs) (s : State wUs wMs) :
    EffectOutcome p s (.poll m) (dispatcherPoll p m (noCommand s)) := by
  by_cases h : s.state = .frameReady
  · rw [dispatcherPoll_ready (s := noCommand s) h]; exact .dispatched _ (.inl ⟨m, rfl⟩) h _ _
  · rw [dispatcherPoll_notReady (s := noCommand s) h]; exact .notReady _ (.inl ⟨m, rfl⟩) h

theorem effectOutcome_code (p : Config.Params) (hi : Dispatches i) (c : Command) (s : State wUs wMs) :
    EffectOutcome p s i (dispatchCode p c (noCommand s)) := by
  by_cases h : s.state = .frameReady
  · rw [dispatchCode_ready (s := noCommand s) h]; exact .dispatched _ hi h (some c) _
  · rw [dispatchCode_notReady (s := noCommand s) h]; exact .notReady _ hi h

theorem effectOutcome_effect (p : Config.Params) (i : Instr wUs wMs) (s : State wUs wMs) :
    EffectOutcome p s i (effect p i s) := by
  cases i with
  | idle => exact .idle
  | reset => exact .reset
  | edge now => exact .edge now _ (edgeOutcome_fallingEdge p now (noCommand s))
  | poll m => exact effectOutcome_poll p m s
  | codeVolUp => exact effectOutcome_code p (.inr (.inl rfl)) .volUp s
  | codeVolDown => exact effectOutcome_code p (.inr (.inr (.inl rfl))) .volDown s
  | codeMute => exact effectOutcome_code p (.inr (.inr (.inr rfl))) .mute s

/-- The inversion of `exec`: it answers a next state only from a legal one, and one of the named outcomes. -/
theorem outcome_of_exec {i : Instr} {s t : State} (h : exec i s = .next t) :
    Legal s ∧ EffectOutcome Config.params s i t := by
  obtain ⟨hs, rfl⟩ := exec_next_iff.1 h
  exact ⟨hs, effectOutcome_effect _ i s⟩

/-! ### What an outcome leaves unchanged -/

/-- The fields no instruction writes: the status register and what the host gives. -/
structure SameHost (s t : State wUs wMs) : Prop where
  statusQ : t.statusQ = s.statusQ
  ports : t.ports = s.ports
  inputs : t.inputs = s.inputs
  freeIndex : t.freeIndex = s.freeIndex

theorem EdgeOutcome.sameHost (h : EdgeOutcome p now s t) : SameHost s t := by
  cases h <;> exact ⟨rfl, rfl, rfl, rfl⟩

/-- An edge touches neither the baseline (R30) nor the command port. -/
theorem EdgeOutcome.baseline_command (h : EdgeOutcome p now s t) : t.lastAccepted = s.lastAccepted ∧ t.cmd = s.cmd := by
  cases h <;> exact ⟨rfl, rfl⟩

theorem EffectOutcome.sameHost (h : EffectOutcome p s i t) : SameHost s t := by
  cases h with
  | idle | reset | notReady => exact ⟨rfl, rfl, rfl, rfl⟩
  | edge now t h =>
    obtain ⟨hq, hp, hi, hf⟩ := h.sameHost
    exact ⟨hq, hp, hi, hf⟩
  | dispatched i _ _ c m =>
    obtain ⟨-, -, -, -, hq, hp, hi, hf⟩ := dispatch_frame p c m (resetCore (noCommand s))
    exact ⟨hq, hp, hi, hf⟩

/-- Only the dispatcher writes the baseline or emits, and only where a frame is complete. -/
theorem EffectOutcome.baseline_command (h : EffectOutcome p s i t) :
    t.lastAccepted = s.lastAccepted ∧ t.cmd = none ∨ Dispatches i ∧ s.state = .frameReady := by
  cases h with
  | idle | reset | notReady => exact .inl ⟨rfl, rfl⟩
  | edge now t h => exact .inl h.baseline_command
  | dispatched i hi hr => exact .inr ⟨hi, hr⟩

/-- The four decoder registers as they were. -/
abbrev SameDecoder (s t : State wUs wMs) : Prop :=
  t.state = s.state ∧ t.codeByte = s.codeByte ∧ t.pulseIndex = s.pulseIndex ∧ t.lastEdge = s.lastEdge

/-- The four decoder registers as `ResetCore()` leaves them (R180). -/
abbrev DecoderReset (t : State wUs wMs) : Prop :=
  t.state = .awaitFirst ∧ t.codeByte = 0 ∧ t.pulseIndex = 0 ∧ t.lastEdge = 0

theorem decoderReset_dispatch (p : Config.Params) (c : Option Command) (m : Millis wMs) (s : State wUs wMs) :
    DecoderReset (dispatch p c m (resetCore s)) := by
  obtain ⟨hs, hc, hi, hl, -⟩ := dispatch_frame p c m (resetCore s)
  exact ⟨hs, hc, hi, hl⟩

/-- Every instruction but EDGE writes the decoder only by `ResetCore()` (R30, R180). -/
theorem EffectOutcome.decoder (h : EffectOutcome p s i t) :
    (∃ now, i = .edge now ∧ EdgeOutcome p now (noCommand s) t) ∨ SameDecoder s t ∨ DecoderReset t := by
  cases h with
  | idle | notReady => exact .inr (.inl ⟨rfl, rfl, rfl, rfl⟩)
  | reset => exact .inr (.inr ⟨rfl, rfl, rfl, rfl⟩)
  | edge now t h => exact .inl ⟨now, rfl, h⟩
  | dispatched i _ _ c m => exact .inr (.inr (decoderReset_dispatch p c m _))

end Sys2Proof.Machine
end

section
/-! PROOF. The accumulator as the list of the code bits received so far (R33, R120), and legality in these terms (R31 to R34). -/

namespace Sys2Proof.Machine

variable {wUs wMs : Nat} {s t : State wUs wMs}

/-- The value of `code_byte` that stores these code bits: all eight, or fewer followed by one 0 (R33). -/
def codeValue (code : List Bit) : Nat := if code.length < 8 then 2 * bitsValue code else bitsValue code

theorem codeValue_of_lt {code : List Bit} (h : code.length < 8) : codeValue code = 2 * bitsValue code := if_pos h

theorem codeValue_of_eq {code : List Bit} (h : code.length = 8) : codeValue code = bitsValue code := if_neg (by omega)

/-- A bit inside the code field is appended to the code bits (R120). -/
theorem accumulate_append {i : PulseIndex} {c : CodeByte} {code : List Bit} (b : Bit) (hc : c.toNat = codeValue code)
    (hi : i.toNat = 16 + code.length) (hlen : code.length < 8) :
    (accumulate Config.params i b c).toNat = codeValue (code ++ [b]) := by
  have hb := bit_toNat_lt b
  rw [codeValue_of_lt hlen] at hc
  have hor : (c ||| b.setWidth 8).toNat = 2 * bitsValue code + b.toNat := by rw [codeByte_or_bit b (by omega), hc]
  rw [accumulate_params]
  by_cases h7 : code.length = 7
  · rw [if_neg (by omega), if_pos (by omega), hor, codeValue_of_eq (by simp [h7]), bitsValue_append]
  · have hlt : bitsValue code < 2 ^ 6 := (bitsValue_lt code).trans_le (Nat.pow_le_pow_right (by omega) (by omega))
    rw [if_pos (by omega), codeByte_shift (by omega), hor, codeValue_of_lt (by simp; omega), bitsValue_append]

/-- Outside the code field the accumulator is kept (R120). -/
theorem accumulate_outside {i : PulseIndex} (b : Bit) (c : CodeByte) (h : i.toNat < 16 ∨ 24 ≤ i.toNat) :
    accumulate Config.params i b c = c := by
  rw [accumulate_params, if_neg (by omega), if_neg (by omega)]

/-- Every number is the value of some bits. -/
theorem exists_bitsValue_eq {k : Nat} :
    ∀ {n : Nat}, n < 2 ^ k → ∃ bits : List Bit, bits.length = k ∧ bitsValue bits = n := by
  induction k with
  | zero => intro n h; exact ⟨[], rfl, by simpa [bitsValue, eq_comm] using h⟩
  | succ k ih =>
    intro n h
    obtain ⟨bits, hlen, hval⟩ := ih (n := n / 2) (by rw [pow_succ] at h; omega)
    refine ⟨bits ++ [BitVec.ofNat 1 n], by simp [hlen], ?_⟩
    rw [bitsValue_append, hval, BitVec.toNat_ofNat]
    omega

/-- The check on `code_byte` with 0 to 7 code bits stored: even, and within the bits it can hold. -/
theorem codeByteLegal_of_lt {k : Nat} (h : k < 8) (c : CodeByte) :
    codeByteLegal k c = true ↔ c.toNat % 2 = 0 ∧ c.toNat < 2 ^ (k + 1) := by
  by_cases h0 : k = 0
  · subst h0
    have hzero : c = 0 ↔ c.toNat = 0 := BitVec.toNat_inj.symm
    simp only [codeByteLegal, if_true, decide_eq_true_eq, hzero]
    omega
  · simp [codeByteLegal, h0, h]

/-- The check on `code_byte` is that it stores some `k` code bits (R33). -/
theorem codeByteLegal_iff {k : Nat} (hk : k ≤ 8) (c : CodeByte) :
    codeByteLegal k c = true ↔ ∃ code : List Bit, code.length = k ∧ c.toNat = codeValue code := by
  rcases hk.lt_or_eq with hlt | rfl
  · rw [codeByteLegal_of_lt hlt]
    constructor
    · rintro ⟨heven, hbound⟩
      obtain ⟨code, hlen, hval⟩ := exists_bitsValue_eq (k := k) (n := c.toNat / 2) (by rw [pow_succ] at hbound; omega)
      exact ⟨code, hlen, by rw [codeValue_of_lt (by omega), hval]; omega⟩
    · rintro ⟨code, rfl, hval⟩
      have hlt' := bitsValue_lt code
      rw [hval, codeValue_of_lt hlt, pow_succ]
      omega
  · obtain ⟨code, hlen, hval⟩ := exists_bitsValue_eq (k := 8) c.isLt
    exact ⟨fun _ => ⟨code, hlen, by rw [codeValue_of_eq hlen, hval]⟩, fun _ => rfl⟩

/-! ### Legal states by phase -/

theorem legal_awaitFirst_iff (hs : s.state = .awaitFirst) :
    Legal s ↔ s.codeByte = 0 ∧ s.pulseIndex = 0 ∧ s.lastEdge = 0 := by
  simp [Legal, legal, hs, and_assoc]

theorem legal_awaitStart_iff (hs : s.state = .awaitStart) : Legal s ↔ s.codeByte = 0 ∧ s.pulseIndex = 0 := by
  simp [Legal, legal, hs]

theorem legal_receiving_iff (hs : s.state = .receiving) :
    Legal s ↔ s.pulseIndex.toNat < 32 ∧
      ∃ code : List Bit, code.length = min (s.pulseIndex.toNat - 16) 8 ∧ s.codeByte.toNat = codeValue code := by
  rw [legal_receiving hs, codeByteLegal_iff (by omega)]

theorem legal_frameReady_iff (hs : s.state = .frameReady) : Legal s ↔ s.pulseIndex.toNat = 32 := by
  rw [Legal, legal, hs]
  exact decide_eq_true_iff

theorem pulseIndex_le_of_legal (h : Legal s) : s.pulseIndex.toNat ≤ 32 := by
  cases hs : s.state with
  | awaitFirst => simp [((legal_awaitFirst_iff hs).1 h).2.1]
  | awaitStart => simp [((legal_awaitStart_iff hs).1 h).2]
  | receiving => exact ((legal_receiving_iff hs).1 h).1.le
  | frameReady => exact ((legal_frameReady_iff hs).1 h).le

/-! ### Every operation leaves a legal state -/

/-- The phase after a bit: the frame is complete at index 32 (R123). -/
theorem storeBit_phase {b : Bit} {now : Micros wUs} (hs : s.state = .receiving) (hi : s.pulseIndex.toNat < 32) :
    (storeBit Config.params b now s).state = if s.pulseIndex.toNat + 1 = 32 then .frameReady else .receiving := by
  rw [storeBit_state, pulseIndex_succ hi, hs]
  rfl

theorem legal_storeBit (b : Bit) (now : Micros wUs) (hs : s.state = .receiving) (h : Legal s) :
    Legal (storeBit Config.params b now s) := by
  obtain ⟨hi, code, hlen, hval⟩ := (legal_receiving_iff hs).1 h
  have hphase := storeBit_phase (b := b) (now := now) hs hi
  have hindex : (storeBit Config.params b now s).pulseIndex.toNat = s.pulseIndex.toNat + 1 := pulseIndex_succ hi
  by_cases hlast : s.pulseIndex.toNat + 1 = 32
  · rw [if_pos hlast] at hphase
    exact (legal_frameReady_iff hphase).2 (hindex.trans hlast)
  · rw [if_neg hlast] at hphase
    refine (legal_receiving_iff hphase).2 ⟨by omega, ?_⟩
    rw [hindex, storeBit_codeByte]
    by_cases hfield : 16 ≤ s.pulseIndex.toNat ∧ s.pulseIndex.toNat < 24
    · exact ⟨code ++ [b], by simp; omega, accumulate_append b hval (by omega) (by omega)⟩
    · exact ⟨code, by omega, by rw [accumulate_outside b _ (by omega), hval]⟩

theorem EdgeOutcome.legal {now : Micros wUs} (h : EdgeOutcome Config.params now s t) (hs : Legal s) : Legal t := by
  cases h with
  | ignored => exact hs
  | aborted => exact legal_resetCore Config.params s
  | restarted | abandoned => exact (legal_awaitStart_iff rfl).2 ⟨rfl, rfl⟩
  | recorded phase =>
    obtain ⟨hcode, hindex, -⟩ := (legal_awaitFirst_iff phase).1 hs
    exact (legal_awaitStart_iff rfl).2 ⟨hcode, hindex⟩
  | started phase =>
    obtain ⟨hcode, -⟩ := (legal_awaitStart_iff phase).1 hs
    exact (legal_receiving_iff rfl).2 ⟨by simp, [], by simp, by simp [hcode, codeValue, bitsValue]⟩
  | stored phase b => exact legal_storeBit b now phase hs

theorem legal_of_decoderReset (h : DecoderReset t) : Legal t := by
  obtain ⟨hs, hc, hi, hl⟩ := h
  exact (legal_awaitFirst_iff hs).2 ⟨hc, hi, hl⟩

/-- An edge that lowers the index has reset the decoder: it aborted an attempt, or is the first edge of a new one (R35). -/
theorem EdgeOutcome.of_pulseIndex_lt {now : Micros wUs} (h : EdgeOutcome Config.params now s t) (hs : Legal s)
    (hless : t.pulseIndex.toNat < s.pulseIndex.toNat) :
    t.pulseIndex = 0 ∧ t.codeByte = 0 ∧
      (t.state = .awaitFirst ∧ t.lastEdge = 0 ∨ t.state = .awaitStart ∧ t.lastEdge = now) := by
  cases h with
  | ignored | recorded => exact absurd hless (lt_irrefl _)
  | aborted => exact ⟨rfl, rfl, .inl ⟨rfl, rfl⟩⟩
  | restarted | abandoned => exact ⟨rfl, rfl, .inr ⟨rfl, rfl⟩⟩
  | started phase =>
    obtain ⟨-, hzero⟩ := (legal_awaitStart_iff phase).1 hs
    simp [hzero] at hless
  | stored phase b =>
    obtain ⟨hlt, -⟩ := (legal_receiving_iff phase).1 hs
    rw [storeBit_pulseIndex, pulseIndex_succ hlt] at hless
    omega

/-- Every instruction keeps R31 to R34. -/
theorem EffectOutcome.legal {i : Instr wUs wMs} (h : EffectOutcome Config.params s i t) (hs : Legal s) : Legal t := by
  rcases h.decoder with ⟨now, -, hedge⟩ | ⟨h1, h2, h3, h4⟩ | hreset
  · exact hedge.legal hs
  · exact (legal_congr _ h1 h2 h3 h4).trans hs
  · exact legal_of_decoderReset hreset

theorem legal_powerOnReset (s : State wUs wMs) : Legal (powerOnReset s) := legal_of_decoderReset ⟨rfl, rfl, rfl, rfl⟩

end Sys2Proof.Machine
end

section
/-! PROOF. Edges whose intervals carry bits, one after another: what the decoder holds of them (R33, R120 to R123). -/

namespace Sys2Proof.Machine

variable {wUs wMs : Nat} {s t : State wUs wMs}

/-- The bits of a frame that are stored: those of pulse indices 16 to 23, as far as they have arrived (R62). -/
def codeField (bits : List Bit) : List Bit := (bits.drop 16).take 8

@[simp] theorem codeField_length (bits : List Bit) : (codeField bits).length = min 8 (bits.length - 16) := by
  simp [codeField]

theorem codeField_of_length_le {bits : List Bit} (h : bits.length ≤ 16) : codeField bits = [] :=
  List.eq_nil_of_length_eq_zero (by simp; omega)

theorem codeField_of_length_lt {bits : List Bit} (h : bits.length < 24) : codeField bits = bits.drop 16 :=
  List.take_of_length_le (by simp; omega)

theorem codeField_append_inside {bits : List Bit} (b : Bit) (hlo : 16 ≤ bits.length) (hhi : bits.length < 24) :
    codeField (bits ++ [b]) = codeField bits ++ [b] := by
  rw [codeField_of_length_lt hhi, codeField, List.drop_append_of_le_length hlo, List.take_of_length_le (by simp; omega)]

theorem codeField_append_outside {bits : List Bit} (b : Bit) (h : bits.length < 16 ∨ 24 ≤ bits.length) :
    codeField (bits ++ [b]) = codeField bits := by
  rcases h with h | h
  · rw [codeField_of_length_le h.le, codeField_of_length_le (by simp; omega)]
  · rw [codeField, List.drop_append_of_le_length (by omega), List.take_append_of_le_length (by simp; omega), codeField]

/-- The decoder has received these bits of a frame, and is otherwise as in `s`. -/
structure Received (s : State wUs wMs) (bits : List Bit) (t : State wUs wMs) : Prop where
  state : t.state = if bits.length = 32 then .frameReady else .receiving
  pulseIndex : t.pulseIndex.toNat = bits.length
  codeByte : t.codeByte.toNat = codeValue (codeField bits)
  lastAccepted : t.lastAccepted = s.lastAccepted
  statusQ : t.statusQ = s.statusQ
  trace : t.trace = s.trace

theorem received_nil (h : Legal s) (hs : s.state = .receiving) (hi : s.pulseIndex = 0) : Received s [] s := by
  obtain ⟨-, code, hlen, hval⟩ := (legal_receiving_iff hs).1 h
  have hnil : code = [] := List.eq_nil_of_length_eq_zero (by simpa [hi] using hlen)
  exact ⟨hs, by simp [hi], by rw [hval, hnil]; rfl, rfl, rfl, rfl⟩

theorem Received.legal {bits : List Bit} (h : Received s bits t) (hlen : bits.length ≤ 32) : Legal t := by
  have hphase := h.state
  rcases hlen.lt_or_eq with hlt | heq
  · rw [if_neg hlt.ne] at hphase
    refine (legal_receiving_iff hphase).2 ⟨h.pulseIndex.trans_lt hlt, codeField bits, ?_, h.codeByte⟩
    rw [codeField_length, h.pulseIndex, min_comm]
  · rw [if_pos heq] at hphase
    exact (legal_frameReady_iff hphase).2 (h.pulseIndex.trans heq)

theorem Received.accumulate_eq {bits : List Bit} (h : Received s bits t) (b : Bit) :
    (accumulate Config.params t.pulseIndex b t.codeByte).toNat = codeValue (codeField (bits ++ [b])) := by
  by_cases hfield : 16 ≤ bits.length ∧ bits.length < 24
  · obtain ⟨hlo, hhi⟩ := hfield
    rw [codeField_append_inside b hlo hhi]
    exact accumulate_append b h.codeByte (by rw [h.pulseIndex, codeField_length]; omega) (by rw [codeField_length]; omega)
  · have hout : bits.length < 16 ∨ 24 ≤ bits.length := by omega
    rw [codeField_append_outside b hout, accumulate_outside b _ (by rwa [h.pulseIndex]), h.codeByte]

/-- One more bit is received (R120 to R123). -/
theorem Received.append {bits : List Bit} (h : Received s bits t) (hlen : bits.length < 32) (b : Bit)
    (now : Micros wUs) : Received s (bits ++ [b]) (storeBit Config.params b now (noCommand t)) := by
  have hstate : t.state = .receiving := by rw [h.state, if_neg hlen.ne]
  have hindex : t.pulseIndex.toNat < 32 := h.pulseIndex.trans_lt hlen
  refine ⟨?_, ?_, h.accumulate_eq b, h.lastAccepted, h.statusQ, h.trace⟩
  · rw [storeBit_phase (s := noCommand t) hstate hindex]
    simp [h.pulseIndex]
  · exact (pulseIndex_succ hindex).trans (by simp [h.pulseIndex])

/-- An interval that carries a bit is not stale. -/
theorem stale_of_classBit {w : Nat} {d : BitVec w} {b : Bit} (h : classBit Config.params d = some b) :
    stale Config.params d = false := by
  rw [← Bool.not_eq_true, stale_params]
  rw [classBit_params] at h
  split_ifs at h <;> omega

/-- While bits are received, an edge whose interval carries a bit stores it (R117, R120). -/
theorem effect_edge_of_classBit {now : Micros wUs} {b : Bit} (hs : s.state = .receiving)
    (hle : s.lastEdge.toNat ≤ now.toNat) (hb : classBit Config.params (now - s.lastEdge) = some b) :
    effect Config.params (.edge now) s = storeBit Config.params b now (noCommand s) := by
  have hready : (noCommand s).state ≠ .frameReady := by simp [hs]
  rw [effect, fallingEdge_fresh hready hle (stale_of_classBit hb)]
  simp [edgeByState, hs, receiveBit, elapsed, hb]

/-- From some bits of a frame, edges that carry more of its bits leave them all received. -/
theorem runOps_edges_of_carries {start : State wUs wMs} {edges : List (Micros wUs)} :
    ∀ {s : State wUs wMs} {before bits : List Bit}, Received start before s →
      (before ++ bits).length ≤ 32 → carries s.lastEdge edges bits = true →
      ∃ t, runOps (perform Config.params) (edges.map .edge) s = .next t ∧ Received start (before ++ bits) t ∧
        (edges.getLast?).getD s.lastEdge = t.lastEdge ∧ (edges ≠ [] → t.cmd = none) := by
  induction edges with
  | nil =>
    intro s before bits h _ hc
    obtain rfl : bits = [] := List.eq_nil_of_length_eq_zero (length_eq_of_carries hc).symm
    exact ⟨s, rfl, by rwa [List.append_nil], rfl, fun hne => absurd rfl hne⟩
  | cons now edges ih =>
    intro s before bits h hlen hc
    cases bits with
    | nil => simp [carries] at hc
    | cons b bits =>
      obtain ⟨hle, hb, hrest⟩ := carries_cons.1 hc
      have hlt : before.length < 32 := by simp at hlen; omega
      have hstate : s.state = .receiving := by rw [h.state, if_neg hlt.ne]
      have hfirst : perform Config.params (.edge now) s = .next (storeBit Config.params b now (noCommand s)) := by
        rw [perform_of_legal (h.legal hlt.le), effect_edge_of_classBit hstate hle hb]
      obtain ⟨t, hrun, hrec, hlast, hcmd⟩ :=
        ih (h.append hlt b now) (bits := bits) (by simpa using hlen) hrest
      refine ⟨t, runOps_cons_of_silent hfirst hrun rfl, by simpa using hrec, ?_, fun _ => ?_⟩
      · rw [List.getLast?_cons, Option.getD_some, ← hlast, storeBit_lastEdge]
      · cases edges with
        | nil => cases hrun; rfl
        | cons e es => exact hcmd (by simp)

end Sys2Proof.Machine
end

section
/-! PROOF. The operations of one step (R41), their orders, and the safety of every step (R201). -/

namespace Sys2Proof.Machine

open Sys2Proof.Config (StrobeOrder)

variable {wUs wMs : Nat} {s : State wUs wMs}

/-! ### Orders of the operations -/

/-- The permutations of three lists of at most one element each are their six concatenations. -/
theorem perm_append_append_iff {α : Type} {a b c ops : List α} (ha : a = [] ∨ ∃ x, a = [x])
    (hb : b = [] ∨ ∃ x, b = [x]) (hc : c = [] ∨ ∃ x, c = [x]) : ops.Perm (a ++ b ++ c) ↔
      ops = a ++ b ++ c ∨ ops = a ++ c ++ b ∨ ops = b ++ a ++ c ∨ ops = b ++ c ++ a ∨ ops = c ++ a ++ b ∨
        ops = c ++ b ++ a := by
  rw [← List.mem_permutations']
  rcases ha with rfl | ⟨x, rfl⟩ <;> rcases hb with rfl | ⟨y, rfl⟩ <;> rcases hc with rfl | ⟨z, rfl⟩ <;>
    simp [List.permutations'] <;> tauto

theorem edgeOps_eq_nil_or_singleton (p : Ports wUs wMs) : edgeOps p = [] ∨ ∃ i, edgeOps p = [i] := by
  unfold edgeOps; split <;> simp

theorem pollOps_eq_nil_or_singleton (p : Ports wUs wMs) : pollOps p = [] ∨ ∃ i, pollOps p = [i] := by
  unfold pollOps; split <;> simp

theorem resetOps_eq_nil_or_singleton (p : Ports wUs wMs) : resetOps p = [] ∨ ∃ i, resetOps p = [i] := by
  unfold resetOps; split <;> simp

/-- The orders of a step are exactly the orders of the operations of its strobes (R41). -/
theorem exists_strobeOps_eq_iff (p : Ports wUs wMs) (ops : List (Instr wUs wMs)) :
    (∃ o, strobeOps o p = ops) ↔ ops.Perm (edgeOps p ++ pollOps p ++ resetOps p) := by
  rw [perm_append_append_iff (edgeOps_eq_nil_or_singleton p) (pollOps_eq_nil_or_singleton p)
    (resetOps_eq_nil_or_singleton p)]
  constructor
  · rintro ⟨o, rfl⟩
    cases o <;> simp [strobeOps]
  · rintro (rfl | rfl | rfl | rfl | rfl | rfl)
    · exact ⟨.edgePollReset, rfl⟩
    · exact ⟨.edgeResetPoll, rfl⟩
    · exact ⟨.pollEdgeReset, rfl⟩
    · exact ⟨.pollResetEdge, rfl⟩
    · exact ⟨.resetEdgePoll, rfl⟩
    · exact ⟨.resetPollEdge, rfl⟩

theorem strobeOps_perm (o : StrobeOrder) (p : Ports wUs wMs) :
    (strobeOps o p).Perm (edgeOps p ++ pollOps p ++ resetOps p) := (exists_strobeOps_eq_iff p _).1 ⟨o, rfl⟩

theorem stepOps_of_ne_nil {o : StrobeOrder} {p : Ports wUs wMs} (h : strobeOps o p ≠ []) : stepOps o p = strobeOps o p := by
  unfold stepOps
  split
  · exact absurd ‹_› h
  · exact (‹strobeOps o p = _›).symm

theorem stepOps_of_nil {o : StrobeOrder} {p : Ports wUs wMs} (h : strobeOps o p = []) : stepOps o p = [.idle] := by
  rw [stepOps, h]

/-- With a strobe set, there is an operation. -/
theorem strobeOps_ne_nil {p : Ports wUs wMs} (o : StrobeOrder)
    (h : p.edgeValid = true ∨ p.pollValid = true ∨ p.resetReq = true) : strobeOps o p ≠ [] := by
  intro hnil
  have hperm := strobeOps_perm o p
  rw [hnil] at hperm
  have hempty := hperm.symm.eq_nil
  rcases h with h | h | h <;> simp [edgeOps, pollOps, resetOps, h] at hempty

/-- One strobe alone is its operation (R41). -/
theorem stepOps_of_single {p : Ports wUs wMs} {i : Instr wUs wMs} (o : StrobeOrder)
    (h : edgeOps p ++ pollOps p ++ resetOps p = [i]) : stepOps o p = [i] := by
  have hone : strobeOps o p = [i] := List.perm_singleton.1 (h ▸ strobeOps_perm o p)
  rw [stepOps_of_ne_nil (by simp [hone]), hone]

/-- No strobe is IDLE (R41). -/
theorem stepOps_of_no_strobe {p : Ports wUs wMs} (o : StrobeOrder) (he : p.edgeValid = false) (hp : p.pollValid = false)
    (hr : p.resetReq = false) : stepOps o p = [.idle] := by
  refine stepOps_of_nil (List.Perm.eq_nil (l := strobeOps o p) ?_)
  simpa [edgeOps, pollOps, resetOps, he, hp, hr] using strobeOps_perm o p

/-! ### What a step runs -/

theorem nextInput_nil (h : s.inputs = []) : nextInput s = .ports (withoutStrobes s.ports) := by rw [nextInput, h]

theorem nextInput_cons {x : Input wUs wMs} {rest : List (Input wUs wMs)} (h : s.inputs = x :: rest) : nextInput s = x := by
  rw [nextInput, h]

/-- The state after the input ports have been taken from the host. -/
theorem afterFetch_of_ports {p : Ports wUs wMs} {rest : List (Input wUs wMs)} (h : s.inputs = .ports p :: rest) :
    afterFetch s = { s with inputs := rest, ports := p, freeIndex := s.freeIndex + 1 } := by
  rw [afterFetch, nextInput_cons h, h]
  rfl

/-- Power-on reset overrides every strobe (R240). -/
theorem step_of_por {s : State} {p : Ports} (h : nextInput s = .ports p) (hp : p.por = true) :
    step s = .next (powerOnReset (afterFetch s)) := by
  rw [step, stepInOrder, h]
  exact if_pos hp

theorem step_of_ports {s : State} {p : Ports} (h : nextInput s = .ports p) (hp : p.por = false) :
    step s = runOps exec (stepOps (Config.sameStepOrder s.freeIndex) p) (afterFetch s) := by
  rw [step, stepInOrder, h]
  exact if_neg (by simp [hp])

/-- A step with at most one operation is that operation. -/
theorem step_of_single {s : State} {p : Ports} {i : Instr} (h : nextInput s = .ports p) (hp : p.por = false)
    (hi : ∀ o, stepOps o p = [i]) : step s = exec i (afterFetch s) := by
  rw [step_of_ports h hp, hi, runOps_singleton]

/-! ### Safety -/

theorem soundState_afterFetch (h : SoundState s) : SoundState (afterFetch s) := h

theorem safe_perform (i : Instr wUs wMs) (h : SoundState s) : Safe (perform Config.params i s) := by
  obtain ⟨hlegal, hstatus⟩ := h
  have houtcome := effectOutcome_effect Config.params i s
  exact ⟨_, perform_of_legal hlegal, houtcome.legal hlegal, houtcome.sameHost.statusQ.trans hstatus⟩

/-- Operations one after another keep the invariant, whatever they are. -/
theorem safe_runOps {ops : List (Instr wUs wMs)} :
    ∀ {s : State wUs wMs}, SoundState s → Safe (runOps (perform Config.params) ops s) := by
  induction ops with
  | nil => intro s h; exact ⟨s, rfl, h⟩
  | cons i rest ih =>
    intro s h
    obtain ⟨t, hrun, ht⟩ := safe_perform i h
    obtain ⟨u, hrest, hu⟩ := ih ht
    exact ⟨_, runOps_cons_next hrun hrest, hu⟩

/-- A step keeps the invariant, whatever the host gives and in whatever order its operations run. -/
theorem safe_stepInOrder (o : StrobeOrder) (h : SoundState s) : Safe (stepInOrder (perform Config.params) o s) := by
  have hfetch := soundState_afterFetch h
  unfold stepInOrder
  split
  · exact safe_perform _ hfetch
  · split
    · exact ⟨_, rfl, legal_powerOnReset _, rfl⟩
    · exact safe_runOps hfetch

/-! ### The command port of a sequence -/

/-- A sequence emits where its first operation or one of the rest does (R42). -/
theorem cmdValid_runOps_cons {i : Instr} {rest : List Instr} {s t u v : State} (ht : exec i s = .next t)
    (hu : runOps exec rest t = .next u) (hv : runOps exec (i :: rest) s = .next v) :
    cmdValid v = true ↔ cmdValid t = true ∨ cmdValid u = true := by
  rw [runOps_cons_next ht hu] at hv
  cases hv
  simp only [cmdValid, Option.isSome_or, Bool.or_eq_true]
  exact or_comm

/-- Of a step's operations, those that are none of EDGE, RESET and IDLE are at most one, its POLL (R41). -/
theorem filter_stepOps_length_le {f : Instr wUs wMs → Bool} (hedge : ∀ now, f (.edge now) = false)
    (hreset : f .reset = false) (hidle : f .idle = false) (o : StrobeOrder) (p : Ports wUs wMs) :
    ((stepOps o p).filter f).length ≤ 1 := by
  by_cases hnil : strobeOps o p = []
  · simp [stepOps_of_nil hnil, hidle]
  · have he : (edgeOps p).filter f = [] := by unfold edgeOps; split <;> simp [hedge]
    have hr : (resetOps p).filter f = [] := by unfold resetOps; split <;> simp [hreset]
    have hp : (pollOps p).length ≤ 1 := by unfold pollOps; split <;> simp
    rw [stepOps_of_ne_nil hnil, ((strobeOps_perm o p).filter f).length_eq, List.filter_append, List.filter_append, he, hr,
      List.nil_append, List.append_nil]
    exact (List.length_filter_le _ _).trans hp

end Sys2Proof.Machine
end

section
/-! PROOF. The statements on the state, the invariant and the steps (10_state.md), each assembled from the lemmas above. -/

namespace Sys2Proof.Machine

/-- Settles O45: power-on reset and every sequence of operations keep the invariant. -/
theorem stepKeepsInvariant : Obligations.StepKeepsInvariant := by
  have block : ∀ (wUs wMs : Nat) (s : State wUs wMs), SoundState s → Safe (blockStep Config.params s) ∧
      ∀ o : Config.StrobeOrder, Safe (stepInOrder (perform Config.params) o s) :=
    fun _ _ _ h => ⟨safe_stepInOrder _ h, fun o => safe_stepInOrder o h⟩
  refine ⟨fun s h => ?_, block⟩
  rw [step_eq_blockStep, exec_eq_perform_fun]
  exact block _ _ s h

/-- Settles O21: of the outcomes of an edge, only those that reset the decoder lower the index, and the other instructions
write it only by `ResetCore()`. -/
theorem pulseIndexNeverDecreases : Obligations.PulseIndexNeverDecreases := by
  intro i s t hrun hless
  obtain ⟨hlegal, houtcome⟩ := outcome_of_exec hrun
  rcases houtcome.decoder with ⟨now, rfl, hedge⟩ | ⟨-, -, hindex, -⟩ | ⟨hstate, hcode, hindex, hlast⟩
  · obtain ⟨hindex, hcode, hphase⟩ := hedge.of_pulseIndex_lt hlegal hless
    exact ⟨hindex, hcode, hphase.imp_right fun ⟨hstate, hlast⟩ => ⟨hstate, by rw [hlast]⟩⟩
  · rw [hindex] at hless
    exact absurd hless (lt_irrefl _)
  · exact ⟨hindex, hcode, .inl ⟨hstate, hlast⟩⟩

/-- Settles O23, by induction over the edges: what the decoder holds of the bits so far. -/
theorem partialFrameHoldsBits : Obligations.PartialFrameHoldsBits := by
  intro s edges bits hlegal hs hi hlen hc
  obtain ⟨t, hrun, hrec, hlast, -⟩ :=
    runOps_edges_of_carries (received_nil hlegal hs hi) (bits := bits) (by simpa using hlen.trans (by omega)) hc
  rw [List.nil_append] at hrec
  refine ⟨t, by rwa [exec_eq_perform_fun], by rw [hrec.state, if_neg (by omega)], hrec.pulseIndex, hlast,
    fun h => ?_, fun _ h => ?_, fun h => ?_⟩
  · exact BitVec.eq_of_toNat_eq (by rw [hrec.codeByte, codeField_of_length_le h]; rfl)
  · rw [hrec.codeByte, codeValue_of_lt (by rw [codeField_length]; omega), codeField_of_length_lt h]
  · rw [hrec.codeByte, codeValue_of_eq (by rw [codeField_length]; omega), codeField]

/-- Settles O42, phase by phase. -/
theorem legalStatesAreTheInvariants : Obligations.LegalStatesAreTheInvariants := by
  intro s
  cases hs : s.state with
  | awaitFirst => simp [legal_awaitFirst_iff hs]
  | awaitStart => simp [legal_awaitStart_iff hs]
  | receiving => simp [legal_receiving_iff hs, codeValue, Nat.lt_succ_iff]
  | frameReady =>
    have hindex : s.pulseIndex = 32 ↔ s.pulseIndex.toNat = 32 := BitVec.toNat_inj.symm
    simpa [legal_frameReady_iff hs] using hindex.symm

/-- Settles O43: the invariant is inductive, and the check comes before every meaning. -/
theorem unreachableStatesRefused : Obligations.UnreachableStatesRefused := by
  refine ⟨legal_powerOnReset State.reset, legal_powerOnReset, fun i s t hrun => ?_, fun _ _ => exec_of_not_legal,
    fun s h hlegal => ?_, fun s hs hcode hlegal => ?_⟩
  · obtain ⟨hlegal, houtcome⟩ := outcome_of_exec hrun
    exact houtcome.legal hlegal
  · have := pulseIndex_le_of_legal hlegal
    omega
  · exact hcode ((legal_awaitFirst_iff hs).1 hlegal).1

/-- Settles O47: what every outcome keeps, what only the dispatcher writes, and how it writes the decoder. -/
theorem registerWriters : Obligations.RegisterWriters := by
  intro i s t hrun
  obtain ⟨-, houtcome⟩ := outcome_of_exec hrun
  obtain ⟨hstatus, hports, hinputs, hfree⟩ := houtcome.sameHost
  refine ⟨hstatus, rfl, hports, hinputs, hfree, fun hi => ?_, fun hi => ?_⟩
  · rcases houtcome.baseline_command with h | ⟨hkind, -⟩
    · exact h
    · rcases hi with rfl | rfl | ⟨now, rfl⟩ <;> simp [Dispatches] at hkind
  · rcases houtcome.decoder with ⟨now, rfl, -⟩ | h
    · simp at hi
    · exact h

/-- Settles O50: only the dispatcher emits, and a sequence joins the commands of its operations. -/
theorem commandOutputs : Obligations.CommandOutputs := by
  refine ⟨fun i s t hrun hvalid => ?_, fun i rest s t u v ht hu hv => ?_,
    filter_stepOps_length_le (fun _ => rfl) rfl rfl, fun s hnone => ?_, fun _ => rfl⟩
  · obtain ⟨-, houtcome⟩ := outcome_of_exec hrun
    rcases houtcome.baseline_command with ⟨-, hnone⟩ | h
    · simp [cmdValid, hnone] at hvalid
    · exact h
  · rw [cmdValid_runOps_cons ht hu hv]
    cases rest with
    | nil => cases hu; simp
    | cons j rest => simp
  · have hcmd : s.cmd = none := by simpa [cmdValid] using hnone
    rw [cmdIdPort, hcmd]

/-- Settles O52: a step's operations are a permutation of those of its strobes, so a single one is the step. -/
theorem strobesBecomeOperations : Obligations.StrobesBecomeOperations := by
  refine ⟨fun s p rest hin hpor => ?_, fun s p rest hin hpor => ?_, fun p hset ops => ?_⟩
  · rw [step_of_por (nextInput_cons hin) hpor, afterFetch_of_ports hin]
  · have hnext := nextInput_cons hin
    rw [← afterFetch_of_ports hin]
    refine ⟨fun he hp hr => ?_, fun he hp hr => ?_, fun he hp hr => ?_, fun he hp hr => ?_,
      _, step_of_ports hnext hpor⟩
    · exact step_of_single hnext hpor fun o => stepOps_of_single o (by simp [edgeOps, pollOps, resetOps, he, hp, hr])
    · exact step_of_single hnext hpor fun o => stepOps_of_single o (by simp [edgeOps, pollOps, resetOps, he, hp, hr])
    · exact step_of_single hnext hpor fun o => stepOps_of_single o (by simp [edgeOps, pollOps, resetOps, he, hp, hr])
    · exact step_of_single hnext hpor fun o => stepOps_of_no_strobe o he hp hr
  · simp only [stepOps_of_ne_nil (strobeOps_ne_nil _ hset)]
    exact exists_strobeOps_eq_iff p ops

/-- Settles O53: no input is ports without strobes, and the step is IDLE. -/
theorem silentHostIdles : Obligations.SilentHostIdles := by
  intro s hin hlegal
  have hstep : step s = .next (noCommand (afterFetch s)) := by
    rw [step_of_single (nextInput_nil hin) rfl fun o => stepOps_of_no_strobe o rfl rfl rfl]
    exact exec_of_legal hlegal
  exact ⟨_, hstep, rfl, rfl, rfl, rfl, rfl, rfl, rfl, rfl, by simp [hin]⟩

/-- Settles O1: the reset state is written with these values. -/
theorem resetValues : Obligations.ResetValues :=
  ⟨⟨rfl, rfl, rfl, rfl, rfl, rfl, rfl⟩, rfl, rfl, rfl⟩

/-- Settles O46: power-on reset writes nothing new to the reset state. -/
theorem invariantAfterReset : Obligations.InvariantAfterReset := ⟨legal_powerOnReset State.reset, rfl⟩

end Sys2Proof.Machine
end

section
/-! PROOF. The statements on the memory of a frame and on the step that runs an operation word (20_memory.md). -/

namespace Sys2Proof.Machine

variable {wUs wMs : Nat}

/-- The state after an operation word has been taken from the host. -/
theorem afterFetch_of_word {s : State wUs wMs} {w : OpWord wUs wMs} {rest : List (Input wUs wMs)}
    (h : s.inputs = .word w :: rest) : afterFetch s =
      { s with inputs := rest, ports := strobesOf s.ports (decodeOp w), freeIndex := s.freeIndex + 1 } := by
  rw [afterFetch, nextInput_cons h, h]
  rfl

/-- A step on an operation word runs its instruction (R80). -/
theorem step_of_word {s : State} {w : OpWord} (h : nextInput s = .word w) :
    step s = exec (decodeOp w) (afterFetch s) := by
  rw [step, stepInOrder, h]

/-- An operation word always decodes, to `decodeOp` of it (R80). -/
theorem decode_opw_eq_ok_iff {w : OpWord} {i : Instr} : decode (.opw w) = .ok i ↔ decodeOp w = i :=
  iff_of_eq (Except.ok.injEq (decodeOp w) i)

/-- Settles O22: 32 edges that carry bits leave all 32 bits received, and the code field of a whole frame is full. -/
theorem frameDeliversCode : Obligations.FrameDeliversCode := by
  intro s edges bits hlegal hs hi hlen hc
  obtain ⟨t, hrun, hrec, hlast, hcmd⟩ :=
    runOps_edges_of_carries (received_nil hlegal hs hi) (bits := bits) hlen.le hc
  rw [List.nil_append] at hrec
  have hne : edges ≠ [] := List.ne_nil_of_length_pos (by rw [length_eq_of_carries hc]; omega)
  refine ⟨t, by rwa [exec_eq_perform_fun], by rw [hrec.state, if_pos hlen], ?_, ?_, ?_,
    hrec.lastAccepted, hrec.statusQ, hrec.trace, hcmd hne⟩
  · exact BitVec.eq_of_toNat_eq (hrec.pulseIndex.trans hlen)
  · rw [hrec.codeByte, codeValue_of_eq (by rw [codeField_length]; omega), codeField]
  · rw [List.getLast?_eq_some_getLast hne] at hlast ⊢
    rw [← hlast, Option.getD_some]

/-- Settles O51: the step takes the word from the inputs and runs what it decodes to. -/
theorem stepRunsDecodedWord : Obligations.StepRunsDecodedWord := by
  intro s w rest i hin hdecode
  obtain rfl := decode_opw_eq_ok_iff.1 hdecode
  rw [step_of_word (nextInput_cons hin), afterFetch_of_word hin]

end Sys2Proof.Machine
end

section
/-! PROOF. The encoder and the decoder of every format, at any widths of the clocks (R80 to R83, R88), and the constants of the
encodings. -/

namespace Sys2Proof

variable {wUs wMs : Nat}

@[simp] theorem decodeOp_idleWord : decodeOp (idleWord : OpWord wUs wMs) = .idle := by
  rw [idleWord, decodeOp_opWord]; rfl

@[simp] theorem decodeOp_resetWord : decodeOp (resetWord : OpWord wUs wMs) = .reset := by
  rw [resetWord, decodeOp_opWord]; rfl

/-- Decoding undoes encoding, at any widths of the clocks. -/
theorem decodeWord_encode (i : Instr wUs wMs) : decodeWord (encode i) = .ok i := by
  cases i with
  | idle => exact congrArg Except.ok decodeOp_idleWord
  | edge now => exact congrArg Except.ok (decodeOp_edgeWord now)
  | poll nowMs => exact congrArg Except.ok (decodeOp_pollWord nowMs)
  | reset => exact congrArg Except.ok decodeOp_resetWord
  | codeVolUp | codeVolDown | codeMute => rfl

/-- Settles O55: one row of the opcode table at a time. -/
theorem decodeAfterEncode : Obligations.DecodeAfterEncode :=
  ⟨fun i _ => decodeWord_encode i, fun _ _ i _ => decodeWord_encode i⟩

/-- The operand of EDGE is `arg` cut to the width of the µs clock (R82). -/
theorem microsOperand_eq_setWidth (a : ArgField wUs wMs) : (microsOperand a : Micros wUs) = a.setWidth wUs :=
  (BitVec.setWidth_eq_extractLsb' (Nat.le_max_left _ _)).symm

/-- The operand of POLL is `arg` cut to the width of the ms clock (R82). -/
theorem millisOperand_eq_setWidth (a : ArgField wUs wMs) : (millisOperand a : Millis wMs) = a.setWidth wMs :=
  (BitVec.setWidth_eq_extractLsb' (Nat.le_max_right _ _)).symm

/-- The operation words with a given `arg`, by `op` (R81, R82). -/
theorem decodeOp_each_op (a : ArgField wUs wMs) :
    decodeOp (opWord a 0b00#2) = .idle ∧ decodeOp (opWord a 0b01#2) = .edge (a.setWidth wUs) ∧
      decodeOp (opWord a 0b10#2) = .poll (a.setWidth wMs) ∧ decodeOp (opWord a 0b11#2) = .reset := by
  simp only [decodeOp_opWord, microsOperand_eq_setWidth, millisOperand_eq_setWidth]
  exact ⟨rfl, rfl, rfl, rfl⟩

/-- Every operation word stands for one of the four operations (R83). -/
theorem decodeOp_total (w : OpWord wUs wMs) :
    decodeOp w = .idle ∨ (∃ now, decodeOp w = .edge now) ∨ (∃ m, decodeOp w = .poll m) ∨ decodeOp w = .reset := by
  unfold decodeOp
  split_ifs <;> simp

/-- Settles O56: at the built widths the operand is all of `arg`. -/
theorem everyOperationWordDecodes : Obligations.EveryOperationWordDecodes := by
  refine ⟨fun arg => ?_, fun w => ⟨decodeOp w, rfl, decodeOp_total w⟩, rfl, rfl, fun wUs wMs arg => decodeOp_each_op arg⟩
  obtain ⟨hidle, hedge, hpoll, hreset⟩ := decodeOp_each_op (wUs := 32) (wMs := 32) arg
  have hfull : arg.setWidth 32 = arg := BitVec.setWidth_eq arg
  exact ⟨congrArg Except.ok hidle, congrArg Except.ok (hedge.trans (congrArg Instr.edge hfull)),
    congrArg Except.ok (hpoll.trans (congrArg Instr.poll hfull)), congrArg Except.ok hreset⟩

/-- Settles O57: the first four are the canonical words of these instructions, the others the rows of the code table. -/
theorem sampleWordsDecode : Obligations.SampleWordsDecode :=
  ⟨decodeWord_encode (.edge 9000), decodeWord_encode (.poll 5), decodeWord_encode .reset, decodeWord_encode .idle,
    rfl, rfl, rfl⟩

/-- Settles O60: the two tables of constants. -/
theorem stateAndCauseCodes : Obligations.StateAndCauseCodes :=
  ⟨⟨rfl, rfl, rfl, rfl⟩, rfl, rfl, rfl, rfl, rfl, rfl, rfl⟩

end Sys2Proof
end

section
/-! PROOF. The code bytes: the code map (R88, R89), the debounce with its numbers (R154 to R157), and the words of format `CMD8`
as the POLL that finds them executes them (log entries 6 and 8). -/

namespace Sys2Proof.Machine

variable {wUs wMs : Nat} {p : Config.Params} {c : Command} {m : Millis wMs} {s : State wUs wMs}

/-! ### The code map and the code words -/

/-- The instruction of a command's row of the opcode table (R88). -/
def codeInstr : Command → Instr wUs wMs
  | .volUp => .codeVolUp
  | .volDown => .codeVolDown
  | .mute => .codeMute

/-- The decoder of code words follows the code map (R88). -/
theorem decodeCode_eq_mapCode (code : CodeByte) : (decodeCode code : Except DecodeError (Instr wUs wMs)) =
    (mapCode Config.params code).elim (.error (.unrecognizedCode code)) fun c => .ok (codeInstr c) := by
  rw [decodeCode_params, mapCode_params]
  split_ifs <;> rfl

theorem decodeCode_of_mapCode_eq_some {code : CodeByte} (h : mapCode Config.params code = some c) :
    (decodeCode code : Except DecodeError (Instr wUs wMs)) = .ok (codeInstr c) := by
  rw [decodeCode_eq_mapCode, h]; rfl

theorem decodeCode_of_mapCode_eq_none {code : CodeByte} (h : mapCode Config.params code = none) :
    (decodeCode code : Except DecodeError (Instr wUs wMs)) = .error (.unrecognizedCode code) := by
  rw [decodeCode_eq_mapCode, h]; rfl

/-- A recognized code byte is dispatched as its command (log entry 8). -/
theorem effect_codeInstr (p : Config.Params) (c : Command) (s : State wUs wMs) :
    effect p (codeInstr c) s = dispatchCode p c (noCommand s) := by
  cases c <;> rfl

/-- A POLL that finds a recognized code byte executes its row, at the time of the port (R152). -/
theorem effect_poll_of_mapCode_eq_some (hs : s.state = .frameReady) (hc : mapCode p s.codeByte = some c)
    (hm : s.ports.msNow = m) : effect p (.poll m) s = effect p (codeInstr c) s := by
  rw [effect_codeInstr, dispatchCode_ready (s := noCommand s) hs, effect, dispatcherPoll_ready (s := noCommand s) hs,
    noCommand_codeByte, hc, noCommand_ports, hm, dispatch]

/-- A POLL that finds any other code frees the channel and drops the frame (R152, R153). -/
theorem effect_poll_of_mapCode_eq_none (hs : s.state = .frameReady) (hc : mapCode p s.codeByte = none) :
    effect p (.poll m) s = dropCommand .unrecognized m (resetCore (noCommand s)) := by
  rw [effect, dispatcherPoll_ready (s := noCommand s) hs, noCommand_codeByte, hc, dispatch]

/-- Settles O28: the code map is injective on the three codes, and a code it does not know is dropped. -/
theorem commandCodeMap : Obligations.CommandCodeMap := by
  refine ⟨fun code => ?_, fun s _ hlegal hs hnone => ⟨_, exec_of_legal hlegal, ?_⟩⟩
  · rw [mapCode_params]
    split_ifs with hUp hDown hMute
    · subst hUp; decide
    · subst hDown; decide
    · subst hMute; decide
    · simp [hUp, hDown, hMute]
  · rw [effect_poll_of_mapCode_eq_none hs hnone]
    exact ⟨rfl, rfl⟩

theorem commandId_ne_zero (c : Command) : commandId c ≠ 0b00#2 := by
  cases c <;> decide

theorem cmdIdPort_of_cmd (h : s.cmd = some c) : cmdValid s = true ∧ cmdIdPort s = commandId c := by
  rw [cmdValid, cmdIdPort, h]
  exact ⟨rfl, rfl⟩

/-- Settles O29: no command has the identifier 0b00, so it shows only the free value of a step without a command. -/
theorem commandIdentifiers : Obligations.CommandIdentifiers := by
  refine fun s => ⟨cmdIdPort_of_cmd, cmdIdPort_of_cmd, cmdIdPort_of_cmd, fun hzero => ?_⟩
  cases hcmd : s.cmd with
  | none => rw [cmdValid, hcmd]; rfl
  | some c => exact absurd ((cmdIdPort_of_cmd hcmd).2.symm.trans hzero) (commandId_ne_zero c)

/-- Settles O40: the decoder of code words and the code map have the same table. -/
theorem pollExecutesCodeWord : Obligations.PollExecutesCodeWord := by
  intro s m hlegal hs hm
  have hdecode : decode (.cmd8 s.codeByte) = decodeCode s.codeByte := rfl
  rw [hdecode, exec_of_legal hlegal]
  cases hc : mapCode Config.params s.codeByte with
  | some c =>
    rw [decodeCode_of_mapCode_eq_some hc]
    refine ⟨fun i hi => ?_, nofun⟩
    cases hi
    rw [exec_of_legal hlegal, effect_poll_of_mapCode_eq_some hs hc hm]
  | none =>
    rw [decodeCode_of_mapCode_eq_none hc, effect_poll_of_mapCode_eq_none hs hc]
    exact ⟨nofun, fun e _ => ⟨_, rfl, rfl, rfl⟩⟩

/-! ### The debounce -/

/-- Without a baseline, or 200 ms after it, a command is emitted (R154, R157). -/
theorem debounce_emits (h : s.lastAccepted = 0 ∨ s.lastAccepted.toNat + 200 ≤ m.toNat) :
    debounce Config.params c m s = emit c m s := by
  rcases debounce_cases Config.params c m s with ⟨-, hemit⟩ | ⟨h0, hlt, -⟩ | ⟨h0, hle, hsoon, -⟩
  · exact hemit
  · rcases h with h | h
    · exact absurd h h0
    · omega
  · rcases h with h | h
    · exact absurd h h0
    · rw [tooSoon_params, BitVec.toNat_sub_of_le hle] at hsoon
      omega

/-- Before the baseline a command is dropped and the baseline cleared (R155). -/
theorem debounce_wrapped (h : m.toNat < s.lastAccepted.toNat) :
    debounce p c m s = dropCommand .wallClockWrap m { s with lastAccepted := 0 } := by
  rcases debounce_cases p c m s with ⟨h0 | ⟨hle, -⟩, -⟩ | ⟨-, -, hdrop⟩ | ⟨-, hle, -⟩
  · simp [h0] at h
  · omega
  · exact hdrop
  · omega

/-- Within 200 ms of the baseline a command is dropped (R156). -/
theorem debounce_tooSoon (h0 : s.lastAccepted ≠ 0) (hle : s.lastAccepted.toNat ≤ m.toNat)
    (hlt : m.toNat < s.lastAccepted.toNat + 200) : debounce Config.params c m s = dropCommand .interval m s := by
  have hsoon : tooSoon Config.params s.lastAccepted m = true := by
    rw [tooSoon_params, BitVec.toNat_sub_of_le hle]
    omega
  rcases debounce_cases Config.params c m s with ⟨hzero | ⟨-, hlate⟩, -⟩ | ⟨-, hwrap, -⟩ | ⟨-, -, -, hdrop⟩
  · exact absurd hzero h0
  · rw [hsoon] at hlate; cases hlate
  · omega
  · exact hdrop

/-- A code word in FRAME_READY frees the channel and meets the debounce (log entry 8). -/
theorem exec_codeInstr_ready {s : State} (c : Command) (h : Legal s) (hs : s.state = .frameReady) :
    exec (codeInstr c) s = .next (debounce Config.params c s.ports.msNow (resetCore (noCommand s))) := by
  rw [exec_of_legal h, effect_codeInstr, dispatchCode_ready (s := noCommand s) hs, noCommand_ports]

/-- Settles O39: the rows are those of `codeInstr`, and in FRAME_READY the debounce decides. -/
theorem codeWordsDispatch : Obligations.CodeWordsDispatch := by
  intro s i c hlegal hrow
  obtain rfl : i = codeInstr c := by cases c <;> simpa [codeInstr] using hrow
  refine ⟨fun hs => ?_, fun hs hemit => ?_, fun hs hwrap => ?_, fun hs h0 hle hlt => ?_⟩
  · rw [exec_of_legal hlegal, effect_codeInstr, dispatchCode_notReady (s := noCommand s) hs, noCommand]
  · rw [exec_codeInstr_ready c hlegal hs, debounce_emits (s := resetCore (noCommand s)) hemit]; rfl
  · rw [exec_codeInstr_ready c hlegal hs, debounce_wrapped (s := resetCore (noCommand s)) hwrap]; rfl
  · rw [exec_codeInstr_ready c hlegal hs, debounce_tooSoon (s := resetCore (noCommand s)) h0 hle hlt]; rfl

/-! ### Placed words -/

theorem decodeTableWord_eq_some {nbits w : Nat} {i : Instr} (h : decodeTableWord nbits w = some i) :
    ∃ e, tableWord nbits w = .ok e ∧ decode e = .ok i := by
  unfold decodeTableWord at h
  split at h
  · cases h
  · next e he =>
    split at h
    · cases h
    · next j hj => cases h; exact ⟨e, he, hj⟩

theorem legal_withCodeWord (code : CodeByte) (s : State wUs wMs) : Legal (withCodeWord code s) :=
  (legal_frameReady_iff rfl).2 rfl

/-- The POLL that is to find a placed code word has the time of the port, and leaves the port there. -/
theorem afterFetch_withCodeWord_msNow (code : CodeByte) (s : State wUs wMs) :
    (afterFetch (withCodeWord code s)).ports.msNow = s.ports.msNow := by
  rw [afterFetch_of_word (s := withCodeWord code s) rfl, decodeOp_pollWord]
  rfl

/-- Settles O59: an operation word is the next input, and a code byte is what the next POLL executes. -/
theorem placedWordRunsNext : Obligations.PlacedWordRunsNext := by
  intro s nbits w i h
  obtain ⟨e, htable, hdecode⟩ := decodeTableWord_eq_some h
  rw [State.withFetchWord, htable]
  cases e with
  | opw op =>
    obtain rfl := decode_opw_eq_ok_iff.1 hdecode
    exact ⟨step_of_word (nextInput_cons rfl), rfl⟩
  | cmd8 code =>
    refine ⟨?_, rfl⟩
    rw [placeWord, step_of_word (nextInput_cons rfl), decodeOp_pollWord]
    exact (pollExecutesCodeWord (afterFetch (withCodeWord code s)) s.ports.msNow (legal_withCodeWord code s) rfl
      (afterFetch_withCodeWord_msNow code s)).1 i hdecode

end Sys2Proof.Machine
end

section
/-! PROOF. A frame on the edge input: what an edge does, by the symbol of the interval it closes (R84, R114 to R119), the 34 edges
of a frame (R86), and the pseudo-instruction FRAME (R92). -/

namespace Sys2Proof.Machine

variable {wUs wMs : Nat} {p : Config.Params} {now : Micros wUs} {s : State wUs wMs}

/-! ### The symbol of an interval -/

/-- What an edge at `now` that closes an interval with a symbol makes of `s`. -/
inductive SymbolOutcome (p : Config.Params) (now : Micros wUs) (s : State wUs wMs) :
    IntervalSymbol → State wUs wMs → Prop where
  /-- the stale gap ends the attempt (R114) -/
  | stale : SymbolOutcome p now s .stale (recordFirst now (resetCore (traceEvent (.abort .staleGap now) s)))
  /-- the start marker (R116) -/
  | startMarker (phase : s.state = .awaitStart) :
      SymbolOutcome p now s .startMarker { s with pulseIndex := 0, lastEdge := now, state := .receiving }
  /-- no start marker (R116) -/
  | notStart (phase : s.state = .awaitStart) : SymbolOutcome p now s .malformed (abortFrame .startMarker now s)
  /-- no data bit (R119) -/
  | notData (phase : s.state = .receiving) : SymbolOutcome p now s .malformed (abortFrame .dataInterval now s)
  /-- a 0 (R117, R120) -/
  | bit0 (phase : s.state = .receiving) : SymbolOutcome p now s .bit0 (storeBit p 0 now s)
  /-- a 1 (R117, R120) -/
  | bit1 (phase : s.state = .receiving) : SymbolOutcome p now s .bit1 (storeBit p 1 now s)

theorem fallingEdge_awaitStart (hs : s.state = .awaitStart) (hle : s.lastEdge.toNat ≤ now.toNat)
    (hstale : ¬ stale p (elapsed s.lastEdge now) = true) :
    fallingEdge p now s = confirmStart p (elapsed s.lastEdge now) now s := by
  rw [fallingEdge_fresh (by simp [hs]) hle (Bool.eq_false_of_not_eq_true hstale), edgeByState, hs]

theorem fallingEdge_receiving (hs : s.state = .receiving) (hle : s.lastEdge.toNat ≤ now.toNat)
    (hstale : ¬ stale p (elapsed s.lastEdge now) = true) :
    fallingEdge p now s = receiveBit p (elapsed s.lastEdge now) now s := by
  rw [fallingEdge_fresh (by simp [hs]) hle (Bool.eq_false_of_not_eq_true hstale), edgeByState, hs]

/-- The stale check comes before the test of the phase (R205). -/
theorem symbolOutcome_of_stale (hphase : s.state = .awaitStart ∨ s.state = .receiving)
    (hle : s.lastEdge.toNat ≤ now.toNat) (hstale : stale p (elapsed s.lastEdge now) = true) :
    SymbolOutcome p now s .stale (fallingEdge p now s) := by
  have hready : s.state ≠ .frameReady := by rcases hphase with h | h <;> simp [h]
  have hfirst : s.state ≠ .awaitFirst := by rcases hphase with h | h <;> simp [h]
  rw [fallingEdge_stale hready hle hstale, if_neg hfirst]
  exact .stale

theorem bit_eq_zero_or_one : ∀ b : Bit, b = 0 ∨ b = 1 := by decide

/-- In a phase that classifies, the symbol of the interval decides what the edge does (R84). -/
theorem symbolOutcome_fallingEdge {sym : IntervalSymbol} (hle : s.lastEdge.toNat ≤ now.toNat)
    (hsym : intervalSymbol p s.state (elapsed s.lastEdge now) = some sym) :
    SymbolOutcome p now s sym (fallingEdge p now s) := by
  cases hs : s.state with
  | awaitFirst | frameReady => rw [hs] at hsym; cases hsym
  | awaitStart =>
    rw [hs, intervalSymbol] at hsym
    split_ifs at hsym with hstale hmark <;> cases hsym
    · exact symbolOutcome_of_stale (.inl hs) hle hstale
    · rw [fallingEdge_awaitStart hs hle hstale, confirmStart, if_pos hmark]
      exact .startMarker hs
    · rw [fallingEdge_awaitStart hs hle hstale, confirmStart, if_neg hmark]
      exact .notStart hs
  | receiving =>
    rw [hs, intervalSymbol] at hsym
    split_ifs at hsym with hstale
    · cases hsym
      exact symbolOutcome_of_stale (.inr hs) hle hstale
    · rw [fallingEdge_receiving hs hle hstale, receiveBit]
      cases hbit : classBit p (elapsed s.lastEdge now) with
      | none =>
        rw [hbit] at hsym
        cases hsym
        exact .notData hs
      | some b =>
        rw [hbit] at hsym
        rcases bit_eq_zero_or_one b with rfl | rfl <;> cases hsym
        · exact .bit0 hs
        · exact .bit1 hs

/-- Settles O17: each symbol has its outcome, or one for each phase, and the outcome says the rest. -/
theorem intervalSymbolDecidesEdge : Obligations.IntervalSymbolDecidesEdge := by
  intro s now sym hlegal hle hsym
  refine ⟨_, exec_of_legal hlegal, ?_⟩
  have houtcome : SymbolOutcome Config.params now (noCommand s) sym (effect Config.params (.edge now) s) :=
    symbolOutcome_fallingEdge hle hsym
  generalize effect Config.params (.edge now) s = t at houtcome ⊢
  cases houtcome with
  | stale => exact ⟨rfl, rfl, rfl, rfl, rfl⟩
  | startMarker phase => exact ⟨phase, rfl, rfl, rfl, rfl⟩
  | notStart phase => exact ⟨rfl, rfl, rfl, rfl, .inl ⟨rfl, phase⟩⟩
  | notData phase => exact ⟨rfl, rfl, rfl, rfl, .inr ⟨rfl, phase⟩⟩
  | bit0 phase | bit1 phase => exact ⟨phase, rfl, rfl, rfl, rfl⟩

/-! ### The 34 edges of a frame -/

/-- A legal AWAIT_FIRST is as `ResetCore()` leaves it (R31). -/
theorem resetCore_of_awaitFirst (h : Legal s) (hs : s.state = .awaitFirst) : resetCore s = s := by
  obtain ⟨hcode, hindex, hlast⟩ := (legal_awaitFirst_iff hs).1 h
  unfold resetCore
  congr 1 <;> symm <;> assumption

/-- The first edge is recorded whatever its time: a stale gap finds nothing to reset (R115, R126). -/
theorem effect_edge_awaitFirst (h : Legal s) (hs : s.state = .awaitFirst) :
    effect Config.params (.edge now) s = recordFirst now (noCommand s) := by
  have hready : (noCommand s).state ≠ .frameReady := by simp [hs]
  have hle : (noCommand s).lastEdge.toNat ≤ now.toNat := by simp [((legal_awaitFirst_iff hs).1 h).2.2]
  rw [effect]
  cases hstale : stale Config.params (elapsed (noCommand s).lastEdge now) with
  | true =>
    rw [fallingEdge_stale hready hle hstale, if_pos (by simpa using hs), resetCore_of_awaitFirst (s := noCommand s) h hs]
  | false => rw [fallingEdge_fresh hready hle hstale, edgeByState, noCommand_state, hs]

/-- The edge after it, in the start window, begins the reception (R116). -/
theorem effect_edge_startMarker (hs : s.state = .awaitStart) (hle : s.lastEdge.toNat ≤ now.toNat)
    (hlo : 7000 < now.toNat - s.lastEdge.toNat) (hhi : now.toNat - s.lastEdge.toNat < 11000) :
    effect Config.params (.edge now) s =
      { noCommand s with pulseIndex := 0, lastEdge := now, state := .receiving } := by
  have hdelta := elapsed_toNat hle
  have hfresh : ¬ stale Config.params (elapsed s.lastEdge now) = true := by rw [stale_params]; omega
  have hmark : startInterval Config.params (elapsed s.lastEdge now) = true := by rw [startInterval_params]; omega
  rw [effect, fallingEdge_awaitStart (s := noCommand s) hs hle hfresh, noCommand_lastEdge, confirmStart, if_pos hmark]

/-- Settles O24: the first two edges lead to a reception that has begun, from where a frame delivers its code. -/
theorem frameIsThirtyFourEdges : Obligations.FrameIsThirtyFourEdges := by
  intro s first second edges bits hlegal hs hle hlo hhi hlen hc
  have hfirst : exec (.edge first) s = .next (recordFirst first (noCommand s)) := by
    rw [exec_of_legal hlegal, effect_edge_awaitFirst hlegal hs]
  have hlegal1 := (outcome_of_exec hfirst).2.legal hlegal
  have hsecond := exec_of_legal (i := .edge second) hlegal1
  have hlegal2 := (outcome_of_exec hsecond).2.legal hlegal1
  rw [effect_edge_startMarker rfl hle hlo hhi] at hsecond hlegal2
  obtain ⟨t, hrest, hready, -, hcode, -, -, -, htrace, -⟩ := frameDeliversCode _ edges bits hlegal2 rfl rfl hlen hc
  exact ⟨t, runOps_cons_of_silent hfirst (runOps_cons_of_silent hsecond hrest rfl) rfl,
    by simp [length_eq_of_carries hc, hlen], hready, hcode, htrace⟩

/-! ### The pseudo-instruction FRAME -/

/-- The bits of a frame from pulse index `k` on are the lower ones of the operand (R92). -/
theorem frameBits_drop (bits : BitVec 32) (n k : Nat) : (frameBits bits (n + k)).drop k = frameBits bits n := by
  induction k with
  | zero => rfl
  | succ k ih => exact ih

/-- The first `n` of the bits of a frame are the upper ones of the operand (R92). -/
theorem frameBits_take (bits : BitVec 32) (n k : Nat) : (frameBits bits (n + k)).take n = frameBits (bits >>> k) n := by
  induction n with
  | zero => simp [frameBits]
  | succ n ih =>
    rw [Nat.succ_add, frameBits, List.take_succ_cons, ih, frameBits, BitVec.getLsbD_ushiftRight, Nat.add_comm k]

@[simp] theorem frameBits_length (bits : BitVec 32) (n : Nat) : (frameBits bits n).length = n := by
  induction n with
  | zero => rfl
  | succ n ih => rw [frameBits, List.length_cons, ih]

/-- The value of the last `n` bits of a frame. -/
theorem bitsValue_frameBits (bits : BitVec 32) (n : Nat) :
    bitsValue ((frameBits bits n).map BitVec.ofBool) = bits.toNat % 2 ^ n := by
  induction n with
  | zero => simp [frameBits, bitsValue, Nat.mod_one]
  | succ n ih =>
    rw [frameBits, List.map_cons, bitsValue, ih, BitVec.toNat_ofBool, ← BitVec.testBit_toNat, Nat.toNat_testBit,
      List.length_map, frameBits_length, Nat.mod_pow_succ, mul_comm, add_comm]

/-- The code field of FRAME's bits is the operand's byte 1 (R62, R92). -/
theorem codeField_frameBits (bits : BitVec 32) :
    bitsValue (codeField ((frameBits bits 32).map BitVec.ofBool)) = (bits.extractLsb' 8 8).toNat := by
  rw [codeField, ← List.map_drop, ← List.map_take, frameBits_drop bits 16 16, frameBits_take bits 8 8,
    bitsValue_frameBits, BitVec.toNat_ushiftRight, BitVec.extractLsb'_toNat]

/-- Intervals in the windows of a 0 and a 1 carry that bit (R117, R118). -/
theorem classBit_interval {s0 s1 : Micros wUs} (h0lo : 980 < s0.toNat) (h0hi : s0.toNat ≤ 1480) (h1lo : 1480 < s1.toNat)
    (h1hi : s1.toNat < 2520) (b : Bool) :
    classBit Config.params (if b then s1 else s0) = some (BitVec.ofBool b) := by
  cases b with
  | false => rw [if_neg Bool.false_ne_true, classBit_params, if_neg (by omega), if_pos (by omega)]; rfl
  | true => rw [if_pos rfl, classBit_params, if_pos (by omega)]; rfl

/-- Where the counter does not wrap, edges at intervals that carry the bits carry them (R92). -/
theorem carries_bitEdges {s0 s1 : Micros wUs} (hle : s0.toNat ≤ s1.toNat)
    (hclass : ∀ b : Bool, classBit Config.params (if b then s1 else s0) = some (BitVec.ofBool b)) (bits : List Bool) :
    ∀ t : Micros wUs, t.toNat + bits.length * s1.toNat < 2 ^ wUs →
      carries t (bitEdges s0 s1 t bits) (bits.map BitVec.ofBool) = true := by
  induction bits with
  | nil => intro t _; rfl
  | cons b bits ih =>
    intro t ht
    rw [List.length_cons, Nat.succ_mul] at ht
    have hstep : (if b then s1 else s0).toNat ≤ s1.toNat := by
      cases b with
      | false => exact hle
      | true => exact le_rfl
    have hadd : (t + if b then s1 else s0).toNat = t.toNat + (if b then s1 else s0).toNat :=
      BitVec.toNat_add_of_lt (by omega)
    rw [bitEdges, List.map_cons, carries_cons]
    refine ⟨by omega, ?_, ih _ (by omega)⟩
    rw [add_sub_cancel_left, hclass]

/-- Settles O25: its edges are those of a frame that carries its bits. -/
theorem framePseudoInstruction : Obligations.FramePseudoInstruction := by
  intro s t0 bits s0 s1 ss hlegal hs h0lo h0hi h1lo h1hi hslo hshi hfit
  have hsecond : (t0 + ss).toNat = t0.toNat + ss.toNat :=
    BitVec.toNat_add_of_lt (by show _ < 2 ^ 32; omega)
  have hcarries := carries_bitEdges (by omega) (classBit_interval h0lo h0hi h1lo h1hi) (frameBits bits 32) (t0 + ss)
    (by rw [frameBits_length, hsecond]; exact hfit)
  obtain ⟨t, hrun, hlen, hready, hcode, -⟩ := frameIsThirtyFourEdges s t0 (t0 + ss) _ _ hlegal hs (by omega) (by omega)
    (by omega) (by simp) hcarries
  exact ⟨hlen, t, hrun, hready, BitVec.eq_of_toNat_eq (hcode.trans (codeField_frameBits bits))⟩

end Sys2Proof.Machine
end

section
/-! PROOF. One falling edge with the numbers of R7: what it does in each phase of the decoder, by the interval it closes
(R111 to R123), and the statements on a single edge (40_pulse_decoder.md). -/

namespace Sys2Proof.Machine

variable {wUs wMs : Nat} {now : Micros wUs} {s : State wUs wMs}

/-! ### The bit classifier -/

theorem classBit_eq_one_iff {w : Nat} (d : BitVec w) :
    classBit Config.params d = some 1 ↔ 1480 < d.toNat ∧ d.toNat < 2520 := by
  rw [classBit_params]
  split_ifs with h1
  · exact iff_of_true rfl h1
  · exact iff_of_false (by decide) h1
  · exact iff_of_false nofun h1

/-- The overlap of the windows is bit 1 (R118). -/
theorem classBit_eq_zero_iff {w : Nat} (d : BitVec w) :
    classBit Config.params d = some 0 ↔ 980 < d.toNat ∧ d.toNat ≤ 1480 := by
  rw [classBit_params]
  split_ifs with h1 h0
  · exact iff_of_false (by decide) (by omega)
  · exact iff_of_true rfl (by omega)
  · exact iff_of_false nofun (by omega)

theorem classBit_eq_none_iff {w : Nat} (d : BitVec w) :
    classBit Config.params d = none ↔ d.toNat ≤ 980 ∨ 2520 ≤ d.toNat := by
  rw [classBit_params]
  split_ifs with h1 h0
  · exact iff_of_false nofun (by omega)
  · exact iff_of_false nofun (by omega)
  · exact iff_of_true rfl (by omega)

/-- Settles O12: the three results, each with its range. -/
theorem classBitWindows : Obligations.ClassBitWindows :=
  fun delta => ⟨classBit_eq_one_iff delta, classBit_eq_zero_iff delta, classBit_eq_none_iff delta⟩

/-! ### What one edge does -/

/-- The gate (R111). -/
theorem effect_edge_frameReady {p : Config.Params} (hs : s.state = .frameReady) :
    effect p (.edge now) s = noCommand s :=
  fallingEdge_ready (s := noCommand s) hs

/-- A wraparound (R112). -/
theorem effect_edge_wrapped {p : Config.Params} (hs : s.state ≠ .frameReady) (hlt : now.toNat < s.lastEdge.toNat) :
    effect p (.edge now) s = abortFrame .wraparound now (noCommand s) :=
  fallingEdge_wrapped (s := noCommand s) hs hlt

theorem perform_edge_wrapped {p : Config.Params} (hlegal : legal p s = true) (hs : s.state ≠ .frameReady)
    (hlt : now.toNat < s.lastEdge.toNat) :
    perform p (.edge now) s = .next (abortFrame .wraparound now (noCommand s)) := by
  rw [perform_of_legal hlegal, effect_edge_wrapped hs hlt]

/-- A stale gap (R114), which ends no attempt in AWAIT_FIRST (R126). -/
theorem effect_edge_stale (hs : s.state ≠ .frameReady) (hle : s.lastEdge.toNat ≤ now.toNat)
    (hgap : 40000 < now.toNat - s.lastEdge.toNat) :
    effect Config.params (.edge now) s = recordFirst now (resetCore
      (if s.state = .awaitFirst then noCommand s else traceEvent (.abort .staleGap now) (noCommand s))) :=
  fallingEdge_stale (s := noCommand s) hs hle ((stale_params _).2 (hgap.trans_eq (elapsed_toNat hle).symm))

/-- An interval of at most `T_STALE` is not stale (R114). -/
theorem not_stale_of_le {w : Nat} {last now : BitVec w} (hle : last.toNat ≤ now.toNat)
    (hgap : now.toNat - last.toNat ≤ 40000) : ¬ stale Config.params (elapsed last now) = true := by
  rw [stale_params, elapsed_toNat hle]
  omega

/-- No start marker (R116). -/
theorem effect_edge_notStart (hs : s.state = .awaitStart) (hle : s.lastEdge.toNat ≤ now.toNat)
    (hout : now.toNat - s.lastEdge.toNat ≤ 7000 ∨ 11000 ≤ now.toNat - s.lastEdge.toNat)
    (hgap : now.toNat - s.lastEdge.toNat ≤ 40000) :
    effect Config.params (.edge now) s = abortFrame .startMarker now (noCommand s) := by
  have hmark : ¬ startInterval Config.params (elapsed s.lastEdge now) = true := by
    rw [startInterval_params, elapsed_toNat hle]
    omega
  rw [effect, fallingEdge_awaitStart (s := noCommand s) hs hle (not_stale_of_le hle hgap), noCommand_lastEdge,
    confirmStart, if_neg hmark]

/-- No data bit (R119). -/
theorem effect_edge_notData (hs : s.state = .receiving) (hle : s.lastEdge.toNat ≤ now.toNat)
    (hout : now.toNat - s.lastEdge.toNat ≤ 980 ∨ 2520 ≤ now.toNat - s.lastEdge.toNat)
    (hgap : now.toNat - s.lastEdge.toNat ≤ 40000) :
    effect Config.params (.edge now) s = abortFrame .dataInterval now (noCommand s) := by
  have hnone : classBit Config.params (elapsed s.lastEdge now) = none := by
    rwa [classBit_eq_none_iff, elapsed_toNat hle]
  rw [effect, fallingEdge_receiving (s := noCommand s) hs hle (not_stale_of_le hle hgap), noCommand_lastEdge,
    receiveBit, hnone]

/-- An interval in the window of a 0 (R117). -/
theorem effect_edge_bit0 (hs : s.state = .receiving) (hle : s.lastEdge.toNat ≤ now.toNat)
    (hlo : 980 < now.toNat - s.lastEdge.toNat) (hhi : now.toNat - s.lastEdge.toNat ≤ 1480) :
    effect Config.params (.edge now) s = storeBit Config.params 0 now (noCommand s) :=
  effect_edge_of_classBit hs hle ((classBit_eq_zero_iff _).2 (by rw [BitVec.toNat_sub_of_le hle]; exact ⟨hlo, hhi⟩))

/-- An interval in the window of a 1 (R117, R118). -/
theorem effect_edge_bit1 (hs : s.state = .receiving) (hle : s.lastEdge.toNat ≤ now.toNat)
    (hlo : 1480 < now.toNat - s.lastEdge.toNat) (hhi : now.toNat - s.lastEdge.toNat < 2520) :
    effect Config.params (.edge now) s = storeBit Config.params 1 now (noCommand s) :=
  effect_edge_of_classBit hs hle ((classBit_eq_one_iff _).2 (by rw [BitVec.toNat_sub_of_le hle]; exact ⟨hlo, hhi⟩))

/-- After `ResetCore()` the next edge is a first edge (R115). -/
theorem effect_edge_decoderReset (h : DecoderReset s) :
    effect Config.params (.edge now) s = recordFirst now (noCommand s) :=
  effect_edge_awaitFirst (legal_of_decoderReset h) h.1

/-- The edge after an abort meets AWAIT_FIRST (R112, R119). -/
theorem perform_edge_abortFrame (c : AbortCause) (now after : Micros wUs) (s : State wUs wMs) :
    perform Config.params (.edge after) (abortFrame c now (noCommand s)) =
      .next (recordFirst after (abortFrame c now (noCommand s))) := by
  have hreset : DecoderReset (abortFrame c now (noCommand s)) := ⟨rfl, rfl, rfl, rfl⟩
  rw [perform_of_legal (legal_of_decoderReset hreset), effect_edge_decoderReset hreset]
  rfl

/-! ### The statements on a single edge -/

/-- Settles O7: the gate comes before every check. -/
theorem edgeIgnoredWhenFrameReady : Obligations.EdgeIgnoredWhenFrameReady := by
  intro s now hlegal hs
  rw [exec_of_legal hlegal, effect_edge_frameReady hs, noCommand]

/-- Settles O8: at any widths the edge aborts, and what an abort leaves is AWAIT_FIRST. -/
theorem edgeWraparoundResets : Obligations.EdgeWraparoundResets := by
  refine ⟨fun s now hlegal hs hlt => ?_, fun _ _ s now hlegal hs hlt =>
    ⟨_, perform_edge_wrapped hlegal hs hlt, rfl, fun after => perform_edge_abortFrame _ now after s⟩⟩
  simp only [exec_eq_perform]
  exact ⟨_, perform_edge_wrapped hlegal hs hlt, rfl, fun after => perform_edge_abortFrame _ now after s⟩

/-- Settles O9: above 40000 the stale check decides, at 40000 the rule of the phase. -/
theorem edgeStaleGapRestarts : Obligations.EdgeStaleGapRestarts := by
  intro s now hlegal hs hle
  refine ⟨fun hgap => ?_, fun hgap hfirst => ?_⟩
  · rw [exec_of_legal hlegal, effect_edge_stale hs hle hgap]
    split_ifs <;> rfl
  · rw [exec_of_legal hlegal]
    cases hphase : s.state with
    | awaitFirst => exact absurd hphase hfirst
    | awaitStart => rw [effect_edge_notStart hphase hle (by omega) (by omega)]; rfl
    | receiving => rw [effect_edge_notData hphase hle (by omega) (by omega)]; rfl
    | frameReady => exact absurd hphase hs

/-- Settles O10: in AWAIT_FIRST the recorded edge is time 0 (R31), so nothing is before it. -/
theorem firstEdgeRecorded : Obligations.FirstEdgeRecorded := by
  intro s now hlegal hs
  obtain ⟨-, -, hlast⟩ := (legal_awaitFirst_iff hs).1 hlegal
  refine ⟨by simp [hlast], by simp [hlast], ?_⟩
  rw [exec_of_legal hlegal, effect_edge_awaitFirst hlegal hs]
  rfl

/-- Settles O11: inside the window the reception begins, outside it the attempt is aborted. -/
theorem startMarkerWindow : Obligations.StartMarkerWindow := by
  intro s now hlegal hs hle
  rw [exec_of_legal hlegal]
  refine ⟨fun hlo hhi => ?_, fun hout hgap => ?_⟩
  · rw [effect_edge_startMarker hs hle hlo hhi]; rfl
  · rw [effect_edge_notStart hs hle hout hgap]; rfl

/-- Settles O13: outside both windows the edge aborts, and what an abort leaves is AWAIT_FIRST. -/
theorem malformedIntervalAborts : Obligations.MalformedIntervalAborts := by
  intro s now hlegal hs hle hout hgap
  refine ⟨_, exec_of_legal hlegal, ?_, fun after => ?_⟩ <;> rw [effect_edge_notData hs hle hout hgap]
  · rfl
  · rw [exec_eq_perform, perform_edge_abortFrame]; rfl

/-- Settles O18: each row lies in one of the ranges of the phase. -/
theorem windowBoundaryValues : Obligations.WindowBoundaryValues := by
  intro s now delta hlegal hdelta
  have hle : s.lastEdge.toNat ≤ now.toNat := by omega
  rw [exec_of_legal hlegal]
  refine ⟨fun hs hd => ⟨_, rfl, ?_⟩, fun hs hd => ⟨_, rfl, ?_⟩, fun hs hd => ⟨_, rfl, ?_⟩, fun hs hd => ⟨_, rfl, ?_⟩,
    fun hs hd => ⟨_, rfl, ?_⟩, fun hs hd => ⟨_, rfl, ?_⟩⟩
  · rw [effect_edge_notStart hs hle (by omega) (by omega)]
    exact ⟨rfl, rfl⟩
  · rw [effect_edge_startMarker hs hle (by omega) (by omega)]
    exact ⟨rfl, rfl⟩
  · rw [effect_edge_notData hs hle (by omega) (by omega)]
    exact ⟨rfl, rfl⟩
  · rw [effect_edge_bit0 hs hle (by omega) (by omega)]
    exact ⟨rfl, rfl, rfl⟩
  · rw [effect_edge_bit1 hs hle (by omega) (by omega)]
    exact ⟨rfl, rfl, rfl⟩
  · have hready : s.state ≠ .frameReady := by rcases hs with h | h <;> simp [h]
    have hfirst : s.state ≠ .awaitFirst := by rcases hs with h | h <;> simp [h]
    rw [effect_edge_stale hready hle (by omega), if_neg hfirst]
    exact ⟨rfl, rfl, rfl, rfl, rfl⟩

/-- Settles O19: an interval of 0 lies below both windows, and AWAIT_FIRST measures none. -/
theorem sameTimestampTwice : Obligations.SameTimestampTwice := by
  intro s hlegal
  rw [exec_of_legal hlegal]
  refine ⟨fun hs => ⟨_, rfl, ?_⟩, fun hs => ⟨_, rfl, ?_⟩, fun hs => ⟨_, rfl, ?_⟩⟩
  · rw [effect_edge_notStart hs le_rfl (by omega) (by omega)]
    exact ⟨rfl, rfl⟩
  · rw [effect_edge_notData hs le_rfl (by omega) (by omega)]
    exact ⟨rfl, rfl⟩
  · rw [effect_edge_awaitFirst hlegal hs]
    exact ⟨rfl, rfl, rfl⟩

/-- Settles O20: the edge at time 0 is a first edge, and the one in the window is measured from it. -/
theorem edgeAtTimeZero : Obligations.EdgeAtTimeZero := by
  intro s now hlegal hs hlo hhi
  have hfirst : exec (.edge 0) s = .next (recordFirst 0 (noCommand s)) := by
    rw [exec_of_legal hlegal, effect_edge_awaitFirst hlegal hs]
  obtain ⟨-, houtcome⟩ := outcome_of_exec hfirst
  refine ⟨_, _, hfirst, rfl, rfl, exec_of_legal (houtcome.legal hlegal), ?_⟩
  rw [effect_edge_startMarker rfl (by simp) (by simpa using hlo) (by simpa using hhi)]
  exact ⟨rfl, rfl⟩

end Sys2Proof.Machine
end

section
/-! PROOF. A classified data interval: the count, the accumulator and the completed frame (R120 to R123). -/

namespace Sys2Proof.Machine

variable {wUs wMs : Nat} {s : State wUs wMs}

/-- A data bit is received (R120 to R122). -/
theorem exec_edge_of_classBit {s : State} {now : Micros} {b : Bit} (hlegal : Legal s) (hs : s.state = .receiving)
    (hle : s.lastEdge.toNat ≤ now.toNat) (hb : classBit Config.params (now - s.lastEdge) = some b) :
    exec (.edge now) s = .next (storeBit Config.params b now (noCommand s)) := by
  rw [exec_of_legal hlegal, effect_edge_of_classBit hs hle hb]

/-- The bit at index 31 is the one that completes the frame (R123). -/
theorem pulseIndex_succ_eq_iff (i : PulseIndex) : i.toNat + 1 = 32 ↔ i = 31 := by
  rw [← BitVec.toNat_inj]
  show _ ↔ i.toNat = 31
  omega

/-- Settles O14: the stored bit, field by field. -/
theorem dataBitReceived : Obligations.DataBitReceived := by
  intro s now b hlegal hs hle hb
  obtain ⟨hlt, -⟩ := (legal_receiving_iff hs).1 hlegal
  rw [exec_edge_of_classBit hlegal hs hle hb, ← accumulate_params]
  simp only [← pulseIndex_succ_eq_iff]
  rw [← storeBit_phase (b := b) (now := now) hs hlt]
  rfl

/-- Settles O15: the count decides the phase, and in FRAME_READY an edge is ignored and the others only reset. -/
theorem frameCompletesAtThirtyTwo : Obligations.FrameCompletesAtThirtyTwo := by
  constructor
  · intro s now b hlegal hs hle hb
    obtain ⟨hlt, -⟩ := (legal_receiving_iff hs).1 hlegal
    refine ⟨_, exec_edge_of_classBit hlegal hs hle hb, ?_⟩
    have hindex : (storeBit Config.params b now (noCommand s)).pulseIndex = 32 ↔ s.pulseIndex.toNat + 1 = 32 := by
      rw [← BitVec.toNat_inj, storeBit_pulseIndex, noCommand_pulseIndex, pulseIndex_succ hlt]
      rfl
    rw [hindex, storeBit_phase (s := noCommand s) hs hlt, noCommand_pulseIndex]
    split_ifs with h
    · exact ⟨iff_of_true rfl h, fun hne => absurd rfl hne⟩
    · exact ⟨iff_of_false nofun h, fun _ => rfl⟩
  · intro i s t hs hrun
    obtain ⟨-, houtcome⟩ := outcome_of_exec hrun
    rcases houtcome.decoder with ⟨now, rfl, -⟩ | ⟨hstate, hcode, hindex, hlast⟩ | hreset
    · obtain ⟨-, rfl⟩ := exec_next_iff.1 hrun
      rw [effect_edge_frameReady hs]
      exact .inl ⟨hs, rfl, rfl, rfl⟩
    · exact .inl ⟨hstate.trans hs, hcode, hindex, hlast⟩
    · exact .inr hreset

/-! ### The accumulator -/

/-- Before the last code bit, bit 7 is 0 with the new bit OR'ed in, so the shift loses nothing (R120). -/
theorem codeByte_or_bit_lt (b : Bit) (hlegal : Legal s) (hs : s.state = .receiving) (hi : s.pulseIndex.toNat < 23) :
    (s.codeByte ||| b.setWidth 8).toNat < 128 := by
  obtain ⟨-, code, hlen, hval⟩ := (legal_receiving_iff hs).1 hlegal
  have hb := bit_toNat_lt b
  have hbits : bitsValue code < 2 ^ 6 := (bitsValue_lt code).trans_le (Nat.pow_le_pow_right (by omega) (by omega))
  rw [codeValue_of_lt (by omega)] at hval
  rw [codeByte_or_bit b (by omega)]
  omega

/-- Up to index 16 no bit has been stored, so any bits can be those received so far (R33). -/
theorem received_of_length_le {bits : List Bit} (hlegal : Legal s) (hs : s.state = .receiving)
    (hi : s.pulseIndex.toNat = bits.length) (hlen : bits.length ≤ 16) : Received s bits s := by
  obtain ⟨-, code, hcode, hval⟩ := (legal_receiving_iff hs).1 hlegal
  obtain rfl : code = [] := List.eq_nil_of_length_eq_zero (by omega)
  exact ⟨by rw [hs, if_neg (by omega)], hi, by rw [hval, codeField_of_length_le hlen], rfl, rfl, rfl⟩

/-- The code field after 16 bits is the next eight (R62). -/
theorem codeField_append_of_length {before bits : List Bit} (hbefore : before.length = 16) (hbits : bits.length = 8) :
    codeField (before ++ bits) = bits := by
  rw [codeField, List.drop_left' hbefore, List.take_of_length_le hbits.le]

/-- Settles O16: what is received from index 16 on is the code field, and one bit is accumulated by its index. -/
theorem accumulatorLosesNoBit : Obligations.AccumulatorLosesNoBit := by
  refine ⟨fun s b => codeByte_or_bit_lt b, fun s edges bits hlegal hs hi hlen hc => ?_,
    fun s now b hlegal hs hle hb => ⟨_, exec_edge_of_classBit hlegal hs hle hb, ?_⟩⟩
  · have hbefore : (List.replicate 16 (0 : Bit)).length = 16 := List.length_replicate
    obtain ⟨t, hrun, hrec, -⟩ := runOps_edges_of_carries
      (received_of_length_le hlegal hs (by rw [hi, hbefore]; rfl) hbefore.le) (by simp [hlen]) hc
    refine ⟨t, by rwa [exec_eq_perform_fun], ?_, ?_⟩
    · exact BitVec.eq_of_toNat_eq (hrec.pulseIndex.trans (by rw [List.length_append, hbefore, hlen]; rfl))
    · rw [hrec.codeByte, codeField_append_of_length hbefore hlen, codeValue_of_eq hlen]
  · rw [storeBit_codeByte, noCommand_pulseIndex, noCommand_codeByte]
    refine ⟨fun h => ?_, fun h => ?_, fun h => accumulate_outside b _ (by omega)⟩
    · rw [accumulate_params, if_pos h]
    · rw [accumulate_params, if_neg (by omega), if_pos h]

end Sys2Proof.Machine
end

section
/-! PROOF. A completed frame: edges leave it as it is, and the first POLL or RESET takes it away (R111, R129, R151, R152, R161). -/

namespace Sys2Proof.Machine

variable {wUs wMs : Nat} {p : Config.Params} {run : Instr wUs wMs → State wUs wMs → Result wUs wMs}
  {ops rest : List (Instr wUs wMs)} {s t u : State wUs wMs}

/-- Operations that leave a state without a command as it is are, before others, as good as not there. -/
theorem runOps_append_of_fixed (hcmd : s.cmd = none) (hfixed : ∀ i ∈ ops, run i s = .next s)
    (hrest : runOps run rest s = .next u) : runOps run (ops ++ rest) s = .next u := by
  induction ops with
  | nil => exact hrest
  | cons i ops ih =>
    obtain ⟨hi, hops⟩ := List.forall_mem_cons.1 hfixed
    exact runOps_cons_of_silent hi (ih hops) hcmd

/-- Every operation begins with `cmd_valid <- 0` (R42). -/
theorem effect_noCommand (p : Config.Params) (i : Instr wUs wMs) (s : State wUs wMs) :
    effect p i (noCommand s) = effect p i s := by
  cases i <;> rfl

theorem perform_noCommand (p : Config.Params) (i : Instr wUs wMs) (s : State wUs wMs) :
    perform p i (noCommand s) = perform p i s := by
  rw [perform, effect_noCommand]
  rfl

/-- Operations that write nothing but `cmd_valid = 0`, at least one, leave the rest the state without a command. -/
theorem runOps_append_of_noCommand (hlegal : legal p s = true) (hkeep : ∀ i ∈ ops, effect p i s = noCommand s)
    (hne : ops ≠ []) (hrest : runOps (perform p) rest (noCommand s) = .next u) :
    runOps (perform p) (ops ++ rest) s = .next u := by
  have hrun : ∀ i ∈ ops, perform p i s = .next (noCommand s) := fun i hi => by rw [perform_of_legal hlegal, hkeep i hi]
  cases ops with
  | nil => exact absurd rfl hne
  | cons i ops =>
    obtain ⟨hi, hops⟩ := List.forall_mem_cons.1 hrun
    exact runOps_cons_of_silent hi
      (runOps_append_of_fixed rfl (fun j hj => (perform_noCommand p j s).trans (hops j hj)) hrest) rfl

/-- A last operation after such ones, or after none, does what it does alone. -/
theorem runOps_append_singleton (hlegal : legal p s = true) (hkeep : ∀ i ∈ ops, effect p i s = noCommand s)
    (i : Instr wUs wMs) : runOps (perform p) (ops ++ [i]) s = .next (effect p i s) := by
  by_cases hnil : ops = []
  · rw [hnil, List.nil_append, runOps_singleton, perform_of_legal hlegal]
  · exact runOps_append_of_noCommand hlegal hkeep hnil
      (by rw [runOps_singleton, perform_noCommand, perform_of_legal hlegal])

/-- Where an operation has reset the decoder, the edge after it is recorded as a first edge (R129). -/
theorem runOps_edge_after_reset {i : Instr wUs wMs} (hrun : perform Config.params i s = .next t) (ht : DecoderReset t)
    (now : Micros wUs) : ∃ v, runOps (perform Config.params) [i, .edge now] s = .next v ∧ v.state = .awaitStart ∧
      v.lastEdge = now ∧ v.pulseIndex = 0 ∧ v.codeByte = 0 ∧ v.trace = t.trace := by
  have hedge : runOps (perform Config.params) [.edge now] t = .next (recordFirst now (noCommand t)) := by
    rw [runOps_singleton, perform_of_legal (legal_of_decoderReset ht), effect_edge_decoderReset ht]
  obtain ⟨-, hcode, hindex, -⟩ := ht
  exact ⟨_, runOps_cons_next hrun hedge, rfl, rfl, hindex, hcode, rfl⟩

/-- A POLL that finds a completed frame frees the channel (R152). -/
theorem decoderReset_effect_poll (m : Millis wMs) (hs : s.state = .frameReady) :
    DecoderReset (effect p (.poll m) s) := by
  rw [effect, dispatcherPoll_ready (s := noCommand s) hs]
  exact decoderReset_dispatch p _ m _

/-- A POLL that finds none writes nothing (R151). -/
theorem exec_poll_notReady {s : State} (m : Millis) (hlegal : Legal s) (hs : s.state ≠ .frameReady) :
    exec (.poll m) s = .next { s with cmd := none } := by
  rw [exec_of_legal hlegal, effect, dispatcherPoll_notReady (s := noCommand s) hs, noCommand]

/-- Settles O26: edges and IDLE write nothing in FRAME_READY, and RESET and POLL reset the decoder. -/
theorem completeFrameBlocksEdges : Obligations.CompleteFrameBlocksEdges := by
  intro s ops hlegal hs hops hne
  rw [exec_eq_perform_fun]
  have hkeep : ∀ i ∈ ops, effect Config.params i s = noCommand s := by
    intro i hi
    rcases hops i hi with rfl | ⟨now, rfl⟩
    · rfl
    · exact effect_edge_frameReady hs
  have hnext (i : Instr) : perform Config.params i (noCommand s) = .next (effect Config.params i s) := by
    rw [perform_noCommand, perform_of_legal hlegal]
  refine ⟨?_, fun now => ?_, fun m now => ?_⟩
  · rw [← List.append_nil ops]
    exact runOps_append_of_noCommand hlegal hkeep hne rfl
  · obtain ⟨v, hrun, h⟩ := runOps_edge_after_reset (hnext .reset) ⟨rfl, rfl, rfl, rfl⟩ now
    exact ⟨v, runOps_append_of_noCommand hlegal hkeep hne hrun, h⟩
  · obtain ⟨v, hrun, hstate, hlast, hindex, hcode, -⟩ :=
      runOps_edge_after_reset (hnext (.poll m)) (decoderReset_effect_poll m hs) now
    exact ⟨v, runOps_append_of_noCommand hlegal hkeep hne hrun, hstate, hlast, hindex, hcode⟩

/-- Settles O38: the edges before the POLL are ignored, and what it leaves is AWAIT_FIRST. -/
theorem frameConsumedOnce : Obligations.FrameConsumedOnce := by
  refine ⟨fun s m => exec_poll_notReady m, fun s edges m n hlegal hs => ?_⟩
  have hreset := decoderReset_effect_poll (p := Config.params) m hs
  have hafter := legal_of_decoderReset hreset
  have hkeep : ∀ i ∈ edges.map .edge, effect Config.params i s = noCommand s :=
    List.forall_mem_map.2 fun _ _ => effect_edge_frameReady hs
  rw [exec_eq_perform_fun]
  refine ⟨_, runOps_append_singleton hlegal hkeep (.poll m), perform_of_legal hlegal, ?_⟩
  rw [← exec_eq_perform_fun]
  obtain ⟨hstate, hcode, hindex, hlast⟩ := hreset
  exact ⟨hstate, hcode, hindex, hlast, exec_poll_notReady n hafter (by rw [hstate]; nofun)⟩

end Sys2Proof.Machine
end

section
/-! PROOF. The dispatcher iteration POLL (R150): the channel is freed first (R151, R152), then the code is mapped (R153) and the
command debounced (R154 to R158), and what this makes of two consecutive commands (R159). -/

namespace Sys2Proof.Machine

variable {wUs wMs : Nat} {p : Config.Params} {c : Option Command} {d : Command} {m : Millis wMs} {s t : State wUs wMs}

/-! ### A POLL that finds a completed frame -/

/-- The code is taken before the reset, and dispatched after it (R152). -/
theorem exec_poll_ready {s : State} (m : Millis) (hlegal : Legal s) (hs : s.state = .frameReady) :
    exec (.poll m) s = .next (dispatch Config.params (mapCode Config.params s.codeByte) m (resetCore (noCommand s))) := by
  rw [exec_of_legal hlegal, effect, dispatcherPoll_ready (s := noCommand s) hs, noCommand_codeByte]

/-- A recognized code meets the debounce on the freed channel (R152, R154 to R157). -/
theorem perform_poll_of_mapCode_eq_some (hlegal : legal p s = true) (hs : s.state = .frameReady)
    (hd : mapCode p s.codeByte = some d) :
    perform p (.poll m) s = .next (debounce p d m (resetCore (noCommand s))) := by
  rw [perform_of_legal hlegal, effect, dispatcherPoll_ready (s := noCommand s) hs, noCommand_codeByte, hd, dispatch]

/-- A time before the baseline drops the command and clears the baseline, at any widths (R155). -/
theorem perform_poll_wrapped (hlegal : legal p s = true) (hs : s.state = .frameReady)
    (hd : mapCode p s.codeByte = some d) (hwrap : m.toNat < s.lastAccepted.toNat) :
    perform p (.poll m) s =
      .next (dropCommand .wallClockWrap m { resetCore (noCommand s) with lastAccepted := 0 }) := by
  rw [perform_poll_of_mapCode_eq_some hlegal hs hd, debounce_wrapped (s := resetCore (noCommand s)) hwrap]

/-- Less than 200 ms after the baseline the command is dropped (R156). -/
theorem exec_poll_tooSoon {s : State} {m : Millis} (hlegal : Legal s) (hs : s.state = .frameReady)
    (hd : mapCode Config.params s.codeByte = some d) (h0 : s.lastAccepted ≠ 0)
    (hle : s.lastAccepted.toNat ≤ m.toNat) (hlt : m.toNat < s.lastAccepted.toNat + 200) :
    exec (.poll m) s = .next (dropCommand .interval m (resetCore (noCommand s))) := by
  rw [exec_eq_perform, perform_poll_of_mapCode_eq_some hlegal hs hd,
    debounce_tooSoon (s := resetCore (noCommand s)) h0 hle hlt]

/-- Without a baseline, or 200 ms after it, the command is emitted (R154, R157). -/
theorem exec_poll_emits {s : State} {m : Millis} (hlegal : Legal s) (hs : s.state = .frameReady)
    (hd : mapCode Config.params s.codeByte = some d)
    (hopen : s.lastAccepted = 0 ∨ s.lastAccepted.toNat + 200 ≤ m.toNat) :
    exec (.poll m) s = .next (emit d m (resetCore (noCommand s))) := by
  rw [exec_eq_perform, perform_poll_of_mapCode_eq_some hlegal hs hd,
    debounce_emits (s := resetCore (noCommand s)) hopen]

/-! ### The baseline between two commands -/

/-- A dispatch that emits makes its time the baseline, and found none or one at least 200 ms old (R154 to R157). -/
theorem dispatch_of_emitted (hbefore : s.cmd = none) (h : cmdValid (dispatch Config.params c m s) = true) :
    (dispatch Config.params c m s).lastAccepted = m ∧
      (s.lastAccepted = 0 ∨ s.lastAccepted.toNat + 200 ≤ m.toNat) := by
  cases c with
  | none => simp [dispatch, dropCommand, cmdValid, hbefore] at h
  | some d =>
    rw [dispatch] at h ⊢
    rcases debounce_cases Config.params d m s with ⟨hopen, hemit⟩ | ⟨-, -, hdrop⟩ | ⟨-, -, -, hdrop⟩
    · refine ⟨by rw [hemit, emit_lastAccepted], hopen.imp_right fun ⟨hle, hlate⟩ => ?_⟩
      have hgap := mt (tooSoon_params s.lastAccepted m).2 (Bool.eq_false_iff.1 hlate)
      rw [BitVec.toNat_sub_of_le hle] at hgap
      omega
    · simp [hdrop, dropCommand, cmdValid, hbefore] at h
    · simp [hdrop, dropCommand, cmdValid, hbefore] at h

/-- A dispatch that neither emits nor drops for a wrap keeps the baseline (R153, R156). -/
theorem lastAccepted_dispatch_of_quiet (hsilent : (dispatch p c m s).cmd = none)
    (hdrop : ∀ n, (dispatch p c m s).trace ≠ .drop .wallClockWrap n :: s.trace) :
    (dispatch p c m s).lastAccepted = s.lastAccepted := by
  cases c with
  | none => rfl
  | some d =>
    rw [dispatch] at hsilent hdrop ⊢
    rcases debounce_cases p d m s with ⟨-, h⟩ | ⟨-, -, h⟩ | ⟨-, -, -, h⟩ <;> rw [h] at hsilent hdrop ⊢
    · cases hsilent
    · exact absurd rfl (hdrop m)
    · rfl

/-- An instruction that neither emits nor drops for a wrap keeps the baseline (R30). -/
theorem EffectOutcome.lastAccepted_of_quiet {i : Instr wUs wMs} (h : EffectOutcome p s i t) (hsilent : t.cmd = none)
    (hdrop : ∀ n, t.trace ≠ .drop .wallClockWrap n :: s.trace) : t.lastAccepted = s.lastAccepted := by
  cases h with
  | idle | reset | notReady => rfl
  | edge now t h => exact h.baseline_command.1
  | dispatched i _ _ c m => exact lastAccepted_dispatch_of_quiet hsilent hdrop

/-- So does a quiet run, operation by operation (R159). -/
theorem QuietRun.lastAccepted {s u : State} (h : QuietRun s u) : u.lastAccepted = s.lastAccepted := by
  induction h with
  | done s => rfl
  | op i s t u runs silent noWrapDrop rest ih =>
    obtain ⟨-, houtcome⟩ := outcome_of_exec runs
    exact ih.trans (houtcome.lastAccepted_of_quiet silent noWrapDrop)

/-- A POLL that emits makes its time the baseline, and found none or one at least 200 ms old. -/
theorem exec_poll_of_emitted {s t : State} {m : Millis} (hrun : exec (.poll m) s = .next t) (h : cmdValid t = true) :
    t.lastAccepted = m ∧ (s.lastAccepted = 0 ∨ s.lastAccepted.toNat + 200 ≤ m.toNat) := by
  obtain ⟨hlegal, houtcome⟩ := outcome_of_exec hrun
  rcases houtcome.baseline_command with ⟨-, hnone⟩ | ⟨-, hs⟩
  · simp [cmdValid, hnone] at h
  · rw [exec_poll_ready m hlegal hs] at hrun
    cases hrun
    exact dispatch_of_emitted rfl h

/-! ### The statements on POLL (41_dispatcher.md) -/

/-- Settles O31: the dispatch starts from the freed channel and leaves it as it is. -/
theorem pollFreesChannel : Obligations.PollFreesChannel := by
  intro s m hlegal hs
  obtain ⟨hstate, hcode, hindex, hlast⟩ :=
    decoderReset_dispatch Config.params (mapCode Config.params s.codeByte) m (noCommand s)
  exact ⟨_, exec_poll_ready m hlegal hs, hstate, hcode, hindex, hlast, rfl⟩

/-- Settles O32: the code map has none for the code, and a dispatch of none is a drop. -/
theorem pollUnrecognizedCode : Obligations.PollUnrecognizedCode := by
  intro s m hlegal hs hUp hDown hMute
  have hnone : mapCode Config.params s.codeByte = none := by
    rw [mapCode_params, if_neg hUp, if_neg hDown, if_neg hMute]
  rw [exec_of_legal hlegal, effect_poll_of_mapCode_eq_none hs hnone]
  rfl

/-- Settles O34: the wrap check comes first, at any widths. -/
theorem pollWallClockWrap : Obligations.PollWallClockWrap := by
  refine ⟨fun s m d hlegal hs hd hwrap => ?_, fun _ _ s m d hlegal hs hd hwrap => ?_⟩
  · rw [exec_eq_perform, perform_poll_wrapped hlegal hs hd hwrap]; rfl
  · rw [perform_poll_wrapped hlegal hs hd hwrap]; rfl

/-- Settles O35: below 200 ms the debounce drops, at 200 ms it emits. -/
theorem pollDebounceInterval : Obligations.PollDebounceInterval := by
  intro s m d hlegal hs hd h0 hle
  refine ⟨fun hgap => ?_, fun hgap => ⟨_, exec_poll_emits hlegal hs hd (.inr (by omega)), rfl⟩⟩
  rw [exec_poll_tooSoon hlegal hs hd h0 hle (by omega)]
  rfl

/-- Settles O36: what `emit` writes is what the port shows. -/
theorem pollEmits : Obligations.PollEmits := by
  intro s m d hlegal hs hd hopen
  obtain ⟨hvalid, hid⟩ := cmdIdPort_of_cmd (emit_cmd d m (resetCore (noCommand s)))
  exact ⟨_, exec_poll_emits hlegal hs hd hopen, hvalid, hid, rfl⟩

/-- Settles O37: the time 0 that is written is the sentinel, so the next command finds no baseline. -/
theorem emitAtTimeZero : Obligations.EmitAtTimeZero := by
  intro s c hlegal hs hc h0
  exact ⟨_, exec_poll_emits hlegal hs hc (.inl h0), rfl, rfl, fun u d m hu hready hd hbaseline =>
    ⟨_, exec_poll_emits hu hready hd (.inl hbaseline), rfl⟩⟩

/-- Settles O41: the first command's time is still the baseline when the second is emitted. -/
theorem commandSpacing : Obligations.CommandSpacing := by
  intro s s1 s2 t2 m1 m2 hfirst hvalid1 hquiet hsecond hvalid2 hne
  obtain ⟨hbaseline, -⟩ := exec_poll_of_emitted hfirst hvalid1
  obtain ⟨-, hopen⟩ := exec_poll_of_emitted hsecond hvalid2
  rw [hquiet.lastAccepted, hbaseline] at hopen
  have hgap := hopen.resolve_left hne
  omega

/-- Settles O30: without a completed frame POLL only takes `cmd_valid` back. -/
theorem pollNotReady : Obligations.PollNotReady := fun _ m => exec_poll_notReady m

/-- Settles O33: with no baseline the debounce emits. -/
theorem pollWithoutBaseline : Obligations.PollWithoutBaseline := by
  intro s m d hlegal hs hd h0
  rw [exec_poll_emits hlegal hs hd (.inl h0)]
  rfl

end Sys2Proof.Machine
end

section
/-! PROOF. The control operations RESET (R181, R182) and IDLE (R183). -/

namespace Sys2Proof.Machine

variable {wUs wMs : Nat}

/-- What IDLE does from every state (R183). -/
theorem effect_idle (p : Config.Params) (s : State wUs wMs) : effect p .idle s = { s with cmd := none } := rfl

/-- What RESET does from every state (R181). -/
theorem effect_reset (p : Config.Params) (s : State wUs wMs) :
    effect p .reset s = { s with state := .awaitFirst, codeByte := 0, pulseIndex := 0, lastEdge := 0, cmd := none } := rfl

/-- RESET is idempotent: what it writes does not depend on what stood there (R182). -/
theorem effect_reset_effect_reset (p : Config.Params) (s : State wUs wMs) :
    effect p .reset (effect p .reset s) = effect p .reset s := by
  simp only [effect_reset]

/-- After a RESET the decoder is as R31 has it, so the next operation is not refused. -/
theorem legal_effect_reset (p : Config.Params) (s : State wUs wMs) : legal p (effect p .reset s) = true :=
  legal_resetCore p (noCommand s)

/-- Settles O4: from a legal state IDLE answers its effect. -/
theorem idleWritesNoRegister : Obligations.IdleWritesNoRegister := by
  intro s hlegal
  rw [exec_of_legal hlegal, effect_idle]

/-- Settles O5: from a legal state RESET answers its effect, and no branch looks at the phase. -/
theorem resetClearsDecoder : Obligations.ResetClearsDecoder := by
  intro s hlegal
  rw [exec_of_legal hlegal, effect_reset]

/-- Settles O6: the second RESET starts from a legal state, and its effect there is the first one's. -/
theorem resetTwiceIsResetOnce : Obligations.ResetTwiceIsResetOnce := by
  intro s hlegal
  have hagain : exec .reset (effect Config.params .reset s) = .next (effect Config.params .reset s) := by
    rw [exec_of_legal (legal_effect_reset Config.params s), effect_reset_effect_reset]
  exact ⟨_, exec_of_legal hlegal, hagain, rfl, rfl, rfl, rfl, rfl⟩

end Sys2Proof.Machine
end

section
/-! PROOF. The causes of R200: one operation reports at most one, and what it leaves behind then is one of a few named cases (R201,
R202, R205, R206, R208). -/

namespace Sys2Proof.Machine

variable {wUs wMs : Nat} {p : Config.Params} {now : Micros wUs} {m : Millis wMs} {i : Instr wUs wMs} {s t : State wUs wMs}

/-- A frame attempt is under way: an abort has something to end (R126). -/
abbrev InAttempt (s : State wUs wMs) : Prop := s.state = .awaitStart ∨ s.state = .receiving

/-- The instruction runs the dispatcher at the time `m`: a POLL at its operand, a code byte at the time of the port (log entry 8). -/
abbrev DispatchesAt (s : State wUs wMs) (i : Instr wUs wMs) (m : Millis wMs) : Prop :=
  i = .poll m ∨ (i = .codeVolUp ∨ i = .codeVolDown ∨ i = .codeMute) ∧ m = s.ports.msNow

/-- What an instruction can make of `s`, by the cause it reports (R200). -/
inductive CauseOutcome (s : State wUs wMs) : Instr wUs wMs → State wUs wMs → Prop where
  | silent {i : Instr wUs wMs} {t : State wUs wMs} (quiet : t.trace = s.trace) : CauseOutcome s i t
  /-- 1a -/
  | startMarker (now : Micros wUs) (phase : s.state = .awaitStart) :
      CauseOutcome s (.edge now) (abortFrame .startMarker now (noCommand s))
  /-- 1b -/
  | dataInterval (now : Micros wUs) (phase : s.state = .receiving) :
      CauseOutcome s (.edge now) (abortFrame .dataInterval now (noCommand s))
  /-- 2 -/
  | wraparound (now : Micros wUs) (phase : InAttempt s) :
      CauseOutcome s (.edge now) (abortFrame .wraparound now (noCommand s))
  /-- 3: the edge starts a new attempt (R114) -/
  | staleGap (now : Micros wUs) (phase : InAttempt s) :
      CauseOutcome s (.edge now) (recordFirst now (resetCore (traceEvent (.abort .staleGap now) (noCommand s))))
  /-- 4 and 5a: the baseline is kept -/
  | dropped {i : Instr wUs wMs} {m : Millis wMs} (source : DispatchesAt s i m) (phase : s.state = .frameReady)
      (c : DropCause) (kept : c ≠ .wallClockWrap) : CauseOutcome s i (dropCommand c m (resetCore (noCommand s)))
  /-- 5b: the baseline is cleared -/
  | wallClockWrap {i : Instr wUs wMs} {m : Millis wMs} (source : DispatchesAt s i m) (phase : s.state = .frameReady) :
      CauseOutcome s i (dropCommand .wallClockWrap m { resetCore (noCommand s) with lastAccepted := 0 })

theorem inAttempt_of_ne (hready : s.state ≠ .frameReady) (hfirst : s.state ≠ .awaitFirst) : InAttempt s := by
  cases hs : s.state with
  | awaitFirst => exact absurd hs hfirst
  | awaitStart => exact .inl hs
  | receiving => exact .inr hs
  | frameReady => exact absurd hs hready

/-- In AWAIT_FIRST the recorded edge is time 0 (R31), so a wraparound is found only within an attempt. -/
theorem inAttempt_of_wrapped (hlegal : Legal s) (hready : s.state ≠ .frameReady) (hlt : now.toNat < s.lastEdge.toNat) :
    InAttempt s := by
  refine inAttempt_of_ne hready fun hfirst => ?_
  obtain ⟨-, -, hlast⟩ := (legal_awaitFirst_iff hfirst).1 hlegal
  simp [hlast] at hlt

/-- The cause of an edge: the checks in the order of R205, each with the phase it is made in. -/
theorem causeOutcome_edge (hlegal : Legal s) (now : Micros wUs) :
    CauseOutcome s (.edge now) (fallingEdge Config.params now (noCommand s)) := by
  rcases fallingEdge_cases Config.params now (noCommand s) with
    ⟨-, h⟩ | ⟨hready, hlt, h⟩ | ⟨hready, -, -, h⟩ | ⟨-, -, h⟩ | ⟨hs, -, -, h⟩ | ⟨hs, -, -, h⟩ <;> rw [h]
  · exact .silent rfl
  · exact .wraparound now (inAttempt_of_wrapped hlegal hready hlt)
  · split
    · exact .silent rfl
    · next hfirst => exact .staleGap now (inAttempt_of_ne hready hfirst)
  · exact .silent rfl
  · unfold confirmStart
    split
    · exact .silent rfl
    · exact .startMarker now hs
  · unfold receiveBit
    split
    · exact .dataInterval now hs
    · exact .silent rfl

/-- The cause of a dispatched code: none where it is emitted (R153 to R157). -/
theorem causeOutcome_dispatch (source : DispatchesAt s i m) (hs : s.state = .frameReady) (c : Option Command) :
    CauseOutcome s i (dispatch p c m (resetCore (noCommand s))) := by
  cases c with
  | none => exact .dropped source hs .unrecognized nofun
  | some c =>
    rw [dispatch]
    rcases debounce_cases p c m (resetCore (noCommand s)) with ⟨-, h⟩ | ⟨-, -, h⟩ | ⟨-, -, -, h⟩ <;> rw [h]
    · exact .silent rfl
    · exact .wallClockWrap source hs
    · exact .dropped source hs .interval nofun

theorem causeOutcome_poll (p : Config.Params) (m : Millis wMs) (s : State wUs wMs) :
    CauseOutcome s (.poll m) (dispatcherPoll p m (noCommand s)) := by
  by_cases hs : s.state = .frameReady
  · rw [dispatcherPoll_ready (s := noCommand s) hs]
    exact causeOutcome_dispatch (.inl rfl) hs _
  · rw [dispatcherPoll_notReady (s := noCommand s) hs]
    exact .silent rfl

theorem causeOutcome_code (p : Config.Params) (hi : i = .codeVolUp ∨ i = .codeVolDown ∨ i = .codeMute) (c : Command)
    (s : State wUs wMs) : CauseOutcome s i (dispatchCode p c (noCommand s)) := by
  by_cases hs : s.state = .frameReady
  · rw [dispatchCode_ready (s := noCommand s) hs]
    exact causeOutcome_dispatch (.inr ⟨hi, rfl⟩) hs (some c)
  · rw [dispatchCode_notReady (s := noCommand s) hs]
    exact .silent rfl

theorem causeOutcome_effect (hlegal : Legal s) (i : Instr wUs wMs) : CauseOutcome s i (effect Config.params i s) := by
  cases i with
  | idle | reset => exact .silent rfl
  | edge now => exact causeOutcome_edge hlegal now
  | poll m => exact causeOutcome_poll _ m s
  | codeVolUp => exact causeOutcome_code _ (.inl rfl) .volUp s
  | codeVolDown => exact causeOutcome_code _ (.inr (.inl rfl)) .volDown s
  | codeMute => exact causeOutcome_code _ (.inr (.inr rfl)) .mute s

/-- Where an event was traced, the decoder is in its initial state, or has recorded the edge after a stale gap (R201, R202). -/
theorem CauseOutcome.state_of_event (h : CauseOutcome s i t) {e : Event wUs wMs} (he : t.trace = e :: s.trace) :
    t.state = .awaitFirst ∨ ∃ now, e = .abort .staleGap now ∧ t.state = .awaitStart := by
  cases h with
  | silent quiet => exact absurd (he.symm.trans quiet) (List.cons_ne_self _ _)
  | startMarker | dataInterval | wraparound | dropped | wallClockWrap => exact .inl rfl
  | staleGap now => exact .inr ⟨now, (List.cons.inj he).1.symm, rfl⟩

/-- Settles O44: every legal state answers the effect, which is legal; the phase is read off the cause. -/
theorem everyOperationGoesOn : Obligations.EveryOperationGoesOn := by
  refine ⟨nofun, fun i s hlegal => ⟨_, exec_of_legal hlegal, ?_, fun e he => ?_⟩⟩
  · exact (effectOutcome_effect Config.params i s).legal hlegal
  · exact (causeOutcome_effect hlegal i).state_of_event he

/-- Settles O49: each cause with what it leaves behind. -/
theorem oneCausePerOperation : Obligations.OneCausePerOperation := by
  intro i s t hrun
  obtain ⟨hlegal, ht⟩ := exec_next_iff.1 hrun
  have hcause : CauseOutcome s i t := ht ▸ causeOutcome_effect hlegal i
  cases hcause with
  | silent quiet => exact .inl quiet
  | startMarker now phase =>
    exact .inr (.inl ⟨_, now, rfl, rfl, fun _ => rfl, fun _ => phase, nofun, nofun⟩)
  | dataInterval now phase =>
    exact .inr (.inl ⟨_, now, rfl, rfl, fun _ => rfl, nofun, fun _ => phase, nofun⟩)
  | wraparound now phase =>
    exact .inr (.inl ⟨_, now, rfl, rfl, fun _ => rfl, nofun, nofun, fun _ => phase⟩)
  | staleGap now phase =>
    exact .inr (.inl ⟨_, now, rfl, rfl, absurd rfl, nofun, nofun, fun _ => phase⟩)
  | dropped source phase c kept =>
    exact .inr (.inr ⟨c, _, source, rfl, phase, rfl, fun _ => rfl, fun h => absurd h kept⟩)
  | wallClockWrap source phase =>
    exact .inr (.inr ⟨_, _, source, rfl, phase, rfl, absurd rfl, fun _ => rfl⟩)

end Sys2Proof.Machine
end

section
/-! PROOF. The two contexts that drive the block: what the interrupt context may issue neither reads nor writes the debounce
baseline (R210). -/

namespace Sys2Proof.Machine

variable {wUs wMs : Nat} {p : Config.Params} {now : Micros wUs} {b : Millis wMs} {i : Instr wUs wMs} {s : State wUs wMs}

/-- The state with another debounce baseline. -/
def withBaseline (b : Millis wMs) (s : State wUs wMs) : State wUs wMs := { s with lastAccepted := b }

@[simp] theorem withBaseline_state (b : Millis wMs) (s : State wUs wMs) : (withBaseline b s).state = s.state := rfl
@[simp] theorem withBaseline_lastEdge (b : Millis wMs) (s : State wUs wMs) : (withBaseline b s).lastEdge = s.lastEdge := rfl

theorem resetIfStale_withBaseline (delta : Micros wUs) :
    resetIfStale p delta now (withBaseline b s) = withBaseline b (resetIfStale p delta now s) := by
  unfold resetIfStale
  rw [withBaseline_state]
  split_ifs <;> rfl

theorem confirmStart_withBaseline (delta : Micros wUs) :
    confirmStart p delta now (withBaseline b s) = withBaseline b (confirmStart p delta now s) := by
  unfold confirmStart
  split <;> rfl

theorem receiveBit_withBaseline (delta : Micros wUs) :
    receiveBit p delta now (withBaseline b s) = withBaseline b (receiveBit p delta now s) := by
  unfold receiveBit
  split <;> rfl

theorem edgeByState_withBaseline (delta : Micros wUs) :
    edgeByState p delta now (withBaseline b s) = withBaseline b (edgeByState p delta now s) := by
  unfold edgeByState
  rw [withBaseline_state]
  cases s.state with
  | awaitFirst | frameReady => rfl
  | awaitStart => exact confirmStart_withBaseline delta
  | receiving => exact receiveBit_withBaseline delta

/-- No check of an edge reads the baseline, and no branch writes it (R30, R210). -/
theorem fallingEdge_withBaseline :
    fallingEdge p now (withBaseline b s) = withBaseline b (fallingEdge p now s) := by
  unfold fallingEdge frameReady
  rw [withBaseline_state, withBaseline_lastEdge]
  split_ifs
  · rfl
  · rfl
  · rw [resetIfStale_withBaseline, edgeByState_withBaseline]

/-- What the interrupt context may issue is EDGE or RESET (R210). -/
theorem interrupt_issues_iff : Context.interrupt.issues i = true ↔ (∃ now, i = .edge now) ∨ i = .reset := by
  cases i <;> simp [Context.issues]

theorem effect_withBaseline (hi : Context.interrupt.issues i = true) :
    effect p i (withBaseline b s) = withBaseline b (effect p i s) := by
  rcases interrupt_issues_iff.1 hi with ⟨now, rfl⟩ | rfl
  · exact fallingEdge_withBaseline (s := noCommand s)
  · rfl

/-- Settles O48: neither the check of R36 nor the effect reads the baseline. -/
theorem interruptContextBlindToBaseline : Obligations.InterruptContextBlindToBaseline := by
  intro i s t m hi hrun
  obtain ⟨hlegal, rfl⟩ := exec_next_iff.1 hrun
  have hlegal' : Legal (withBaseline m s) := (legal_congr _ rfl rfl rfl rfl).trans hlegal
  exact exec_next_iff.2 ⟨hlegal', (effect_withBaseline hi).symm⟩

end Sys2Proof.Machine
end

section
/-! PROOF. An edge and a poll that find a completed frame in one step (R207). -/

namespace Sys2Proof.Machine

open Sys2Proof.Config (StrobeOrder)

variable {wUs wMs : Nat} {s : State wUs wMs}

/-- A step whose input is ports without power-on reset runs the operations of their strobes, in the given order (R41). -/
theorem stepInOrder_of_ports {run : Instr wUs wMs → State wUs wMs → Result wUs wMs} {ports : Ports wUs wMs}
    (h : nextInput s = .ports ports) (hpor : ports.por = false) (o : StrobeOrder) :
    stepInOrder run o s = runOps run (stepOps o ports) (afterFetch s) := by
  rw [stepInOrder, h]
  exact if_neg (by simp [hpor])

/-- Without a reset request only the order of the edge and the poll is left open (R41). -/
theorem stepOps_of_no_reset {ports : Ports wUs wMs} (hreset : ports.resetReq = false) (o : StrobeOrder) :
    stepOps o ports = stepOps .edgePollReset ports ∨ stepOps o ports = stepOps .pollEdgeReset ports := by
  have hnone : resetOps ports = [] := by simp [resetOps, hreset]
  cases o with
  | edgePollReset | edgeResetPoll | resetEdgePoll => exact .inl (by simp [stepOps, strobeOps, hnone])
  | pollEdgeReset | pollResetEdge | resetPollEdge => exact .inr (by simp [stepOps, strobeOps, hnone])

theorem stepOps_edge_poll {ports : Ports wUs wMs} (hedge : ports.edgeValid = true) (hpoll : ports.pollValid = true)
    (hreset : ports.resetReq = false) :
    stepOps .edgePollReset ports = [.edge ports.edgeTs, .poll ports.msNow] ∧
      stepOps .pollEdgeReset ports = [.poll ports.msNow, .edge ports.edgeTs] := by
  simp [stepOps, strobeOps, edgeOps, pollOps, resetOps, hedge, hpoll, hreset]

/-- Settles O54: edge first, the frame still blocks the edge and the poll resets the decoder; poll first, the edge finds the decoder
reset. -/
theorem edgeAndPollInOneStep : Obligations.EdgeAndPollInOneStep := by
  intro s ports rest hin hpor hedge hpoll hreset hlegal hs
  have horder := stepInOrder_of_ports (run := exec) (nextInput_cons hin) hpor
  obtain ⟨hedgeFirst, hpollFirst⟩ := stepOps_edge_poll hedge hpoll hreset
  have hfetched : Legal (afterFetch s) := hlegal
  have hfreed := decoderReset_effect_poll (p := Config.params) (s := afterFetch s) ports.msNow hs
  refine ⟨?_, ?_, ?_⟩
  · have hblocked : ∀ i ∈ [Instr.edge ports.edgeTs], effect Config.params i (afterFetch s) = noCommand (afterFetch s) :=
      List.forall_mem_singleton.2 (effect_edge_frameReady hs)
    obtain ⟨hstate, -, -, hlast⟩ := hfreed
    refine ⟨_, ?_, hstate, hlast⟩
    rw [horder, hedgeFirst, exec_eq_perform_fun]
    exact runOps_append_singleton hfetched hblocked _
  · obtain ⟨t, hrun, hstate, hlast, -⟩ := runOps_edge_after_reset (perform_of_legal hfetched) hfreed ports.edgeTs
    exact ⟨t, by rw [horder, hpollFirst, exec_eq_perform_fun, hrun], hstate, hlast⟩
  · simp only [step, horder]
    exact (stepOps_of_no_reset hreset _).imp (congrArg (runOps exec · _)) (congrArg (runOps exec · _))

end Sys2Proof.Machine
end

section
/-! PROOF. Power-on reset, the baseline a reset keeps, and the frame attempt that gets no edge (70_reset_and_hazards.md: R240, R242,
R245). -/

namespace Sys2Proof.Machine

variable {wUs wMs : Nat} {p : Config.Params} {now : Micros wUs} {s : State wUs wMs}

/-! ### An attempt under way -/

/-- Within an attempt an edge meets neither the gate (R111) nor the rule of AWAIT_FIRST (R126). -/
theorem ne_of_inAttempt (h : InAttempt s) : s.state ≠ .frameReady ∧ s.state ≠ .awaitFirst := by
  rcases h with h | h <;> simp [h]

/-- A POLL that finds no completed frame writes nothing but `cmd_valid = 0` (R151). -/
theorem effect_poll_notReady (m : Millis wMs) (hs : s.state ≠ .frameReady) : effect p (.poll m) s = noCommand s :=
  dispatcherPoll_notReady (s := noCommand s) hs

/-- An edge after a stale gap ends the attempt and is recorded as a first edge (R114). -/
theorem effect_edge_stale_of_inAttempt (h : InAttempt s) (hgap : s.lastEdge.toNat + 40000 < now.toNat) :
    effect Config.params (.edge now) s =
      recordFirst now (resetCore (traceEvent (.abort .staleGap now) (noCommand s))) := by
  obtain ⟨hready, hfirst⟩ := ne_of_inAttempt h
  rw [effect_edge_stale hready (by omega) (by omega), if_neg hfirst]

/-! ### The statements on reset and hazards -/

/-- Settles O3: without a baseline the debounce emits; a reset writes the decoder registers only, and a drop none. -/
theorem baselineSurvivesReset : Obligations.BaselineSurvivesReset := by
  refine ⟨powerOnReset_lastAccepted, fun s m c hlegal hs h0 hc => ?_, fun s hlegal => ?_, fun s m hlegal hs hnone => ?_⟩
  · exact ⟨_, exec_poll_emits hlegal hs hc (.inl h0), emit_cmd _ _ _⟩
  · exact ⟨_, exec_of_legal hlegal, resetCore_lastAccepted _⟩
  · refine ⟨_, exec_of_legal hlegal, ?_⟩
    rw [effect_poll_of_mapCode_eq_none hs hnone, dropCommand, traceEvent_lastAccepted, resetCore_lastAccepted,
      noCommand_lastAccepted]

/-- Settles O27: IDLE and POLL write nothing outside FRAME_READY, so the edge still measures from the attempt's last one. -/
theorem partialFrameStaysParked : Obligations.PartialFrameStaysParked := by
  intro s ops now hlegal hs hops hne
  obtain ⟨hready, -⟩ := ne_of_inAttempt hs
  have hkeep : ∀ i ∈ ops, effect Config.params i s = noCommand s := by
    intro i hi
    rcases hops i hi with rfl | ⟨m, rfl⟩
    · rfl
    · exact effect_poll_notReady m hready
  rw [exec_eq_perform_fun]
  refine ⟨?_, fun hgap => ⟨_, runOps_append_singleton hlegal hkeep (.edge now), ?_⟩⟩
  · rw [← List.append_nil ops]
    exact runOps_append_of_noCommand hlegal hkeep hne rfl
  · rw [effect_edge_stale_of_inAttempt hs hgap]
    exact ⟨rfl, rfl, rfl, rfl⟩

/-- Settles O2: the step takes its input from the host, and `por` decides before any strobe is looked at. -/
theorem powerOnResetOverrides : Obligations.PowerOnResetOverrides := by
  intro s p rest hin hpor
  rw [step_of_por (nextInput_cons hin) hpor, afterFetch_of_ports hin, powerOnReset]

end Sys2Proof.Machine
end
